-- ==== Sys2Proof/Word.lean ====
section
/-!
DEFINITION. The word types of the block: command words, character bytes and samples.
Bit 0 is the least significant bit (R13); every number is unsigned (R12).
A time has the width of the parameter `TIME_W` (R8), so it is held as a `Nat` below `2 ^ TIME_W` and every operation on
it is modulo `2 ^ TIME_W` (R12; `addT` and `subT` of Machine/Ops.lean; log 3, DESIGN CHOICE, safe).
-/

namespace Sys2Proof

/-- A command word: one 16-bit unit, transferred whole (R81, R100). -/
abbrev Word := BitVec 16

/-- A character byte, an 8-bit ASCII code (R16). -/
abbrev Byte := BitVec 8

/-- A sample as RXS carries it: the 12-bit unsigned field `SAMPLE` (R103, R106). -/
abbrev Sample := BitVec 12

end Sys2Proof
end

