-- ==== Sys2Proof/Config.lean ====
section
/-!
DEFINITION. The synthesis-time parameters of the block (R8), what they must satisfy (R9), the default code table
(R132) and the spec's own named test configurations (D23, 95_test_vectors.md).
No command reads or writes a parameter (R50).
-/

namespace Sys2Proof

/-- `INPUT_KIND` (R8): analog amplitude samples through filter and threshold, or a digital level. -/
inductive InputKind where
  | analog
  | digital
deriving DecidableEq, Repr

/-- A code word `(L, B)` (R130). -/
structure CodeWord where
  /-- `L`, the number of symbols. -/
  len : BitVec 3
  /-- `B`: bit `i` is symbol `i`, first-sent at bit 0; DOT = 0, DASH = 1 (R15, R130). -/
  bits : BitVec 5
deriving DecidableEq, Repr

/-- One entry of the CodeTable (R131): a character and its code word. -/
structure CodeEntry where
  char : Byte
  code : CodeWord
deriving DecidableEq, Repr

/-- Where a platform maps the block's ports in its own address space (`PLATFORM_MAP`, R85). No rule of the block
depends on it (log 21). -/
structure PlatformMap where
  base : Nat
  commandPort : Nat
  status : Nat
  decMiss : Nat
  encMiss : Nat
deriving DecidableEq, Repr

/-- Entries 0 to 12 of `ITU_TABLE` (R132), A to M. The code of every row but S and O is the spec's general
knowledge (log 16, UNVERIFIED, unsafe for a deployment with another table). -/
def ituLettersAtoM : List CodeEntry :=
  [⟨0x41, 2, 0x02⟩, ⟨0x42, 4, 0x01⟩, ⟨0x43, 4, 0x05⟩, ⟨0x44, 3, 0x01⟩, ⟨0x45, 1, 0x00⟩, ⟨0x46, 4, 0x04⟩,
   ⟨0x47, 3, 0x03⟩, ⟨0x48, 4, 0x00⟩, ⟨0x49, 2, 0x00⟩, ⟨0x4A, 4, 0x0E⟩, ⟨0x4B, 3, 0x05⟩, ⟨0x4C, 4, 0x02⟩,
   ⟨0x4D, 2, 0x03⟩]

/-- Entries 13 to 25 of `ITU_TABLE` (R132), N to Z. -/
def ituLettersNtoZ : List CodeEntry :=
  [⟨0x4E, 2, 0x01⟩, ⟨0x4F, 3, 0x07⟩, ⟨0x50, 4, 0x06⟩, ⟨0x51, 4, 0x0B⟩, ⟨0x52, 3, 0x02⟩, ⟨0x53, 3, 0x00⟩,
   ⟨0x54, 1, 0x01⟩, ⟨0x55, 3, 0x04⟩, ⟨0x56, 4, 0x08⟩, ⟨0x57, 3, 0x06⟩, ⟨0x58, 4, 0x09⟩, ⟨0x59, 4, 0x0D⟩,
   ⟨0x5A, 4, 0x03⟩]

/-- Entries 26 to 35 of `ITU_TABLE` (R132), 0 to 9. -/
def ituDigits : List CodeEntry :=
  [⟨0x30, 5, 0x1F⟩, ⟨0x31, 5, 0x1E⟩, ⟨0x32, 5, 0x1C⟩, ⟨0x33, 5, 0x18⟩, ⟨0x34, 5, 0x10⟩, ⟨0x35, 5, 0x00⟩,
   ⟨0x36, 5, 0x01⟩, ⟨0x37, 5, 0x03⟩, ⟨0x38, 5, 0x07⟩, ⟨0x39, 5, 0x0F⟩]

/-- `ITU_TABLE`, the default of `CODE_TABLE` (R132). -/
def ituTable : List CodeEntry := ituLettersAtoM ++ ituLettersNtoZ ++ ituDigits

/-- What a window slot of `SAMPLE_W` bits takes from an analog sample that needs more of them: a free value, which
nothing constrains. The spec gives the width as a parameter (R8) and a 12-bit field in every word (R103), and states no
result there (log 4, DESIGN CHOICE, safe). -/
opaque Config.wideSample (sampleW : Nat) (x : Sample) : Sample

/-- The parameters of R8. A field without a default is one whose value the source does not give (`OPEN`). -/
structure Config where
  inputKind : InputKind := .analog
  /-- `SAMPLE_W`, the width of a window slot (R8, R32). -/
  sampleW : Nat := 12
  /-- `FILTER_SIZE`, N. -/
  filterSize : Nat := 10
  soundThreshold : Nat := 1000
  debounceTime : Nat := 50
  peakDetectionThreshold : Nat := 500
  dashThreshold : Nat := 100
  /-- `MAX_MORSE_LENGTH`, CAP. -/
  maxMorseLength : Nat := 6
  /-- `CHAR_GAP_MS`, the receive gap threshold and the transmit inter-letter gap (D16); `OPEN`. -/
  charGapMs : Nat
  /-- `DOT_LENGTH`; `OPEN`. -/
  dotLength : Nat
  /-- `DASH_LENGTH`; `OPEN`. -/
  dashLength : Nat
  dualSource : Bool := false
  /-- `TIME_W`, the width of every time register. -/
  timeW : Nat := 32
  codeTable : List CodeEntry := ituTable
  /-- `POLL_PERIOD_MS` (R266), the host's; `OPEN`, and no rule reads it (log 21). -/
  pollPeriodMs : Option Nat := none
  /-- `PLATFORM_MAP` (R85), the platform's; `OPEN`, and no rule reads it (log 21). -/
  platformMap : Option PlatformMap := none
deriving DecidableEq, Repr

/-- The 36 characters of the table in entry order: A to Z, then 0 to 9 (R131). -/
def alphabet : List Byte :=
  (List.range 26).map (fun i => BitVec.ofNat 8 (0x41 + i)) ++ (List.range 10).map (fun i => BitVec.ofNat 8 (0x30 + i))

/-- A table entry's code has 1 to 5 symbols (R131 (ii)) and zeros past them (R130). -/
def CodeWord.ok (w : CodeWord) : Bool :=
  decide (1 ≤ w.len.toNat) && decide (w.len.toNat ≤ 5) && decide (w.bits.toNat < 2 ^ w.len.toNat)

/-- No two of the codes are equal (R131 (iii)); two are equal when their lengths and their bits are (R130). -/
def codesDistinct : List CodeWord → Bool
  | [] => true
  | w :: rest => rest.all (fun v => !(w == v)) && codesDistinct rest

/-- The invariants of R131: exactly one entry for each character, in the stated order; code lengths; unique codes. -/
def codeTableOk (t : List CodeEntry) : Bool :=
  decide (t.map CodeEntry.char = alphabet) && (t.map CodeEntry.code).all CodeWord.ok
    && codesDistinct (t.map CodeEntry.code)

/-- What the parameters must satisfy (R9). -/
def Config.valid (c : Config) : Bool :=
  decide (1 ≤ c.filterSize) && decide (c.filterSize ≤ 15) && decide (c.soundThreshold ≤ 4095)
    && decide (1 ≤ c.dotLength) && decide (1 ≤ c.dashLength)
    && [c.debounceTime, c.peakDetectionThreshold, c.dashThreshold, c.charGapMs, c.dotLength, c.dashLength].all
        (fun t => decide (t < 2 ^ c.timeW))
    && decide (1 ≤ c.maxMorseLength) && decide (c.maxMorseLength ≤ 7) && codeTableOk c.codeTable

/-- The test configuration REF (D23): every default of R8, and the spec's test values for the three `OPEN` times.
The model's reset instance (log 2, DESIGN CHOICE, unsafe for another deployment). -/
def Config.ref : Config := { charGapMs := 300, dotLength := 60, dashLength := 180 }

/-- The test configuration LB (D23): REF with digital input and a peak guard of 100 ms. -/
def Config.lb : Config := { Config.ref with inputKind := .digital, peakDetectionThreshold := 100 }

/-- The test configuration LB500 (95_test_vectors.md): LB with the default peak guard. -/
def Config.lb500 : Config := { Config.lb with peakDetectionThreshold := 500 }

/-- The test configuration LBD (95_test_vectors.md): LB with two sources. -/
def Config.lbd : Config := { Config.lb with dualSource := true }

end Sys2Proof
end

