-- ==== Sys2Proof/Syntax.lean ====
section
/-!
DEFINITION. The commands and the strobe of the block: one constructor per row of spec/opcode_table.json, and the
two ports they arrive on.
-/

namespace Sys2Proof

/-- An input channel, the field `SRC` (R10, R106). -/
inductive Chan where
  | c0
  | c1
deriving DecidableEq, Repr

/-- The channel's number as the one bit of `SRC`, `LAST_SRC` and `CHAR_SRC` (R41, R103, R294). -/
def Chan.bit : Chan → Bool
  | .c0 => false
  | .c1 => true

/-- The channel a `SRC` bit names (R106). -/
def Chan.ofBit : Bool → Chan
  | false => .c0
  | true => .c1

/-- The channel that is not `k` (R10). -/
def Chan.other : Chan → Chan
  | .c0 => .c1
  | .c1 => .c0

/-- A Morse symbol (R15, R19). -/
inductive Symbol where
  | dot
  | dash
deriving DecidableEq, Repr

/-- DOT = 0, DASH = 1 (R15). -/
def Symbol.bit : Symbol → Bool
  | .dot => false
  | .dash => true

/-- The operations of the block: the three commands and the clock strobe (R101, R105). A word that is none of them
is illegal and no instruction (R107, R264). -/
inductive Instr where
  /-- NOP (R102, R262). -/
  | nop
  /-- RXS src, sample: poll one channel (R103, R150). -/
  | rxs (src : Chan) (sample : Sample)
  /-- TXC c: transmit one character (R104, R232). -/
  | txc (char : Byte)
  /-- TICK: one millisecond has elapsed (R105, R260). -/
  | tick
deriving DecidableEq, Repr

/-- What arrives at the block's two command inputs: a word at the command port (R100) or a strobe on the clock
port (R105). -/
inductive PortInput where
  | command (w : Word)
  | strobe
deriving DecidableEq, Repr

end Sys2Proof
end

