-- ==== Sys2Proof/WellFormed.lean ====
section
/-!
DEFINITION. Which operands an instruction may carry on a given instance of the block (R103, R104).
-/

namespace Sys2Proof

/-- Channel 1 exists only with `DUAL_SOURCE` (R10, R103). -/
def Config.hasChannel (c : Config) : Chan → Bool
  | .c0 => true
  | .c1 => c.dualSource

/-- The channels of the instance in increasing order: `NCH` of them (R10). -/
def Config.channels (c : Config) : List Chan := if c.dualSource then [.c0, .c1] else [.c0]

/-- With digital input, bits 11 to 1 of the sample are 0 (R103, R154). -/
def Config.sampleOk (c : Config) (x : Sample) : Bool :=
  match c.inputKind with
  | .analog => true
  | .digital => x.extractLsb' 1 11 == 0#11

/-- An instruction the instance accepts: every operand value for NOP, TXC (R110) and TICK; for RXS an existing
channel and a sample of the instance's kind (R103). -/
def Instr.wf (c : Config) : Instr → Bool
  | .nop => true
  | .rxs k x => c.hasChannel k && c.sampleOk x
  | .txc _ => true
  | .tick => true

end Sys2Proof
end

