-- ==== Sys2Proof/Decode.lean ====
section
/-!
DEFINITION. The decoder (R107), total on all words and rejecting by name, and the encoder (R101 to R105).
-/

namespace Sys2Proof

/-- Why a word is illegal (R108). -/
inductive DecodeError where
  /-- `OP` = 000 and bits [12:0] not 0 (R102). -/
  | nopTail
  /-- An RXS word with `SRC` = 1 on a single-source instance (R103). -/
  | noSuchSource
  /-- An RXS word with `W[11:1]` not 0 on a digital instance (R103). -/
  | notALevel
  /-- `OP` = 010 and bits [12:8] not 0 (R104). -/
  | txcTail
  /-- `OP` = 011 to 111 (R109). -/
  | reservedOp
deriving DecidableEq, Repr

/-- The field `OP` = bits [15:13] (R101). -/
def opField (w : Word) : BitVec 3 := w.extractLsb' 13 3

/-- The field `SRC` = bit [12] (R103). -/
def srcField (w : Word) : Chan := Chan.ofBit (w.getLsbD 12)

/-- The field `SAMPLE` = bits [11:0] (R103). -/
def sampleField (w : Word) : Sample := w.extractLsb' 0 12

/-- The field `CHAR` = bits [7:0] (R104). -/
def charField (w : Word) : Byte := w.extractLsb' 0 8

/-- The bits [12:8] that a TXC word has 0 (R104). -/
def txcZeros (w : Word) : BitVec 5 := w.extractLsb' 8 5

/-- An RXS word's operands, or why it is illegal; the first matching line wins (R107). -/
def decodeRxs (c : Config) (w : Word) : Except DecodeError Instr :=
  if c.hasChannel (srcField w) = false then .error .noSuchSource
  else if c.sampleOk (sampleField w) = false then .error .notALevel
  else .ok (.rxs (srcField w) (sampleField w))

/-- `decode_cmd(W)` (R107). -/
def decodeCmd (c : Config) (w : Word) : Except DecodeError Instr :=
  if w = 0x0000#16 then .ok .nop
  else if opField w = 0b001#3 then decodeRxs c w
  else if opField w = 0b010#3 then
    if txcZeros w = 0#5 then .ok (.txc (charField w)) else .error .txcTail
  else if opField w = 0b000#3 then .error .nopTail
  else .error .reservedOp

/-- What arrives at either port, decoded: a command word by R107, a strobe as TICK (R105). -/
def decode (c : Config) : PortInput → Except DecodeError Instr
  | .command w => decodeCmd c w
  | .strobe => .ok .tick

/-- The word of an RXS command: `OP` = 001, `SRC`, `SAMPLE` (R103). -/
def rxsWord (k : Chan) (x : Sample) : Word := (0b001#3 ++ BitVec.ofBool k.bit) ++ x

/-- The word of a TXC command: `OP` = 010, five zeros, `CHAR` (R104). -/
def txcWord (ch : Byte) : Word := (0b010#3 ++ 0#5) ++ ch

/-- The encoding of an instruction at its port (R101 to R105). -/
def encode : Instr → PortInput
  | .nop => .command 0x0000#16
  | .rxs k x => .command (rxsWord k x)
  | .txc ch => .command (txcWord ch)
  | .tick => .strobe

/-- A row's encoding as spec/opcode_table.json numbers it: `nbits` of at most 8 is the one-bit clock encoding of the
format CLK (R105), 16 is a command word (R100; log 17, DESIGN CHOICE, safe). -/
def portInputOfTable (nbits w : Nat) : Option PortInput :=
  if nbits ≤ 8 then (if w = 1 then some .strobe else none)
  else if w < 2 ^ 16 then some (.command (BitVec.ofNat 16 w)) else none

/-- The instruction the decoder of the reset instance reads from a row's encoding. -/
def decodeTableWord (nbits w : Nat) : Option Instr :=
  match portInputOfTable nbits w with
  | none => none
  | some p => (decode Config.ref p).toOption

end Sys2Proof
end

