-- ==== Sys2Proof/Machine/State.lean ====
section
/-!
DEFINITION. The state of the block as plain data: every register of 10_state.md, the ports of 60_exceptions.md that
hold a value between steps, what the environment does next, and the state after reset (R56).
-/

namespace Sys2Proof.Machine

/-- The registers of one channel, `ch[k]` (R32 to R39). -/
structure Channel where
  /-- `WIN[0..N-1]`, the filter window (R32). -/
  win : List Sample
  /-- `WIDX`, the slot the next sample overwrites (R33). -/
  widx : BitVec 4
  /-- `ACC`, the accepted signal state (R34). -/
  acc : Bool
  /-- `PEND`: a pulse start time is held (R35). -/
  pend : Bool
  /-- `START`, the pending pulse's start time (R35). -/
  start : Nat
  /-- `T_TRANS`, the last accepted transition (R36). -/
  tTrans : Nat
  /-- `T_RISE`, the last accepted rising edge (R37). -/
  tRise : Nat
  /-- `T_FALL`, the last accepted falling edge (R38). -/
  tFall : Nat
  /-- `LEN`, the symbols held (R39). -/
  len : BitVec 3
  /-- `BUF`: bit `i` is slot `i`, DOT = 0, DASH = 1 (R39). `CAP` is at most 7 (R9); bits at or above it are no slots
  and stay 0 (log 14, DESIGN CHOICE, safe). -/
  buf : BitVec 7
deriving DecidableEq, Repr

/-- `TX_PHASE`, the transmitter's segment kind (R43). -/
inductive TxPhase where
  /-- No character in progress. -/
  | idle
  /-- Output high for a symbol. -/
  | mark
  /-- The inter-symbol space. -/
  | symgap
  /-- The inter-letter space. -/
  | lgap
deriving DecidableEq, Repr

/-- The transmit registers (R43 to R46). -/
structure Transmitter where
  /-- `TX_PHASE` (R43). -/
  phase : TxPhase
  /-- `TX_LEN` (R44). -/
  len : BitVec 3
  /-- `TX_BITS` (R44). -/
  bits : BitVec 5
  /-- `TX_IDX` (R44). -/
  idx : BitVec 3
  /-- `TX_CNT`, milliseconds left in the segment (R45). -/
  cnt : Nat
  /-- `TX_OUT`, the output line (R46). -/
  out : Bool
deriving DecidableEq, Repr

/-- An output event `(src, c)` (R52). -/
structure OutEvent where
  src : Chan
  char : Byte
deriving DecidableEq, Repr

/-- One act of the environment (R17): the host, the clock or the reset input. The sink only takes events (R294). -/
inductive EnvStep where
  /-- The host drives `CMD_VALID` = 1 and `CMD` = `w` (R291). -/
  | present (w : Word)
  /-- A host step: the block takes the word at the port if it is ready (R263, R291). -/
  | host
  /-- A strobe on the clock port (R292). -/
  | clock
  /-- The pin `RST` is driven to a level, `true` = asserted (R293). -/
  | reset (asserted : Bool)
deriving DecidableEq, Repr

/-- The state. -/
structure State where
  /-- The instance's parameters (R8). Not state of the block (R55): carried so that a state says which instance it is
  a state of; no step writes it (log 1, DESIGN CHOICE, safe). -/
  cfg : Config
  /-- `ch[0]`. -/
  ch0 : Channel
  /-- `ch[1]`; without `DUAL_SOURCE` it does not exist and no step reads or writes it (R10; log 13, DESIGN CHOICE, safe). -/
  ch1 : Channel
  /-- `LAST_SRC` (R41); without `DUAL_SOURCE` no step reads or writes it (log 13). -/
  lastSrc : Chan
  /-- `NOW`, the millisecond counter (R42). -/
  now : Nat
  /-- The transmit registers (R43 to R46). -/
  tx : Transmitter
  /-- `ILL`, sticky (R47). -/
  ill : Bool
  /-- `DEC_MISS` (R48). -/
  decMiss : BitVec 16
  /-- `ENC_MISS` (R48). -/
  encMiss : BitVec 16
  /-- `OUT`, every event emitted so far, oldest first (R52). -/
  out : List OutEvent
  /-- What the output event port presents after the last step, in order (R294; log 9, DESIGN CHOICE, safe). -/
  charPort : List OutEvent
  /-- The word waiting at the command port; `none` is `CMD_VALID` = 0 (R291; log 6, DEDUCED, safe). -/
  port : Option Word
  /-- The level of the pin `RST` (R293; log 10, DEDUCED, unsafe). -/
  rst : Bool
  /-- What the environment does next, in order (R17, R87; log 5, DESIGN CHOICE, safe). -/
  env : List EnvStep
deriving DecidableEq, Repr

/-- Reasons a step stops with a fault: none. The block raises no exception and takes no trap (R280), and
93_implementation_defined.md has no item treated as a fault (log 20, DEDUCED, safe). -/
inductive Fault where
deriving DecidableEq, Repr

/-- Reasons a step is refused. -/
inductive Refusal where
  /-- An instruction without a meaning: raised by no arm of `exec` in this model. Safe. -/
  | notModelled (mnemonic : String)
  /-- Raised by every step of a state whose parameters break R9: "A model refuses any configuration that breaks
  these". Safe (log 7). -/
  | invalidConfiguration
  /-- Raised when the host presents a word over a different one not yet taken, which R297 forbids it and I12 says to
  refuse. Safe (log 8). -/
  | heldWordChanged
deriving DecidableEq, Repr

/-- A channel's registers after reset (R56). -/
def Channel.reset (c : Config) : Channel :=
  { win := List.replicate c.filterSize 0#12, widx := 0, acc := false, pend := false, start := 0, tTrans := 0,
    tRise := 0, tFall := 0, len := 0, buf := 0 }

/-- The transmit registers after reset (R56). -/
def Transmitter.reset : Transmitter :=
  { phase := .idle, len := 0, bits := 0, idx := 0, cnt := 0, out := false }

/-- The state right after reset of the instance with parameters `c` (R56, R310): every register 0, no word at the
port, the pin released. `OUT`, the event port and the environment are empty (log 25, DESIGN CHOICE, unsafe). -/
def State.resetOf (c : Config) : State :=
  { cfg := c, ch0 := Channel.reset c, ch1 := Channel.reset c, lastSrc := .c0, now := 0, tx := Transmitter.reset,
    ill := false, decMiss := 0, encMiss := 0, out := [], charPort := [], port := none, rst := false, env := [] }

/-- The state right after reset of the instance REF (log 2, DESIGN CHOICE, unsafe for another deployment). -/
def State.reset : State := State.resetOf Config.ref

end Sys2Proof.Machine
end

