-- ==== Sys2Proof/Machine/Ops.lean ====
section
/-!
DEFINITION. The named operations over the registers, each shared by the meanings that need it: modular time, the
channel registers, the buffer's slots, the event sink, the counters, the hold of the command port, the illegal word
and the reset action. The block raises no exception and takes no trap (R280, R283), so there is no entry into one and
no return from one; `raiseIll` is all that an illegal word does (R264).
-/

namespace Sys2Proof.Machine

/-- `a +_W b` (R12). -/
def addT (w : Nat) (a b : Nat) : Nat := (a + b) % 2 ^ w

/-- `a −_W b` (R12). -/
def subT (w : Nat) (a b : Nat) : Nat := (a + (2 ^ w - b % 2 ^ w)) % 2 ^ w

/-- Bit `i` of `b` set to `v`; a position past the last bit changes nothing. -/
def setBit {n : Nat} (b : BitVec n) (i : Nat) (v : Bool) : BitVec n :=
  if v then b ||| BitVec.twoPow n i else b &&& ~~~(BitVec.twoPow n i)

/-- The registers of channel `k` (R14). -/
def State.ch (s : State) : Chan → Channel
  | .c0 => s.ch0
  | .c1 => s.ch1

/-- Write the registers of channel `k`. -/
def State.setCh (s : State) (k : Chan) (c : Channel) : State :=
  match k with
  | .c0 => { s with ch0 := c }
  | .c1 => { s with ch1 := c }

/-- `emit(k, c)`: one event appended to `OUT` and presented at the event port (R14, R52, R294). -/
def State.emit (s : State) (k : Chan) (c : Byte) : State :=
  { s with out := s.out ++ [⟨k, c⟩], charPort := s.charPort ++ [⟨k, c⟩] }

/-- `DEC_MISS <- DEC_MISS +_16 1` (R48, R203). -/
def State.countDecMiss (s : State) : State := { s with decMiss := s.decMiss + 1 }

/-- `ENC_MISS <- ENC_MISS +_16 1` (R48, R232). -/
def State.countEncMiss (s : State) : State := { s with encMiss := s.encMiss + 1 }

/-- `ILL <- 1`, and nothing else (R264). -/
def State.raiseIll (s : State) : State := { s with ill := true }

/-- `LAST_SRC <- k`, where the register exists (R41, R180). -/
def State.setLastSrc (s : State) (k : Chan) : State :=
  if s.cfg.dualSource then { s with lastSrc := k } else s

/-- `NOW <- NOW +_T 1` (R42, R260). -/
def State.advanceNow (s : State) : State := { s with now := addT s.cfg.timeW s.now 1 }

/-- Write the transmit registers. -/
def State.setTx (s : State) (t : Transmitter) : State := { s with tx := t }

/-- `TX_BUSY`: `TX_PHASE` ≠ `IDLE` (R49). -/
def State.busy (s : State) : Bool := !(s.tx.phase == .idle)

/-- `hold`: the command has no step in this state, and nothing changes (R14, R238). -/
def State.hold (s : State) : State := s

/-- A command's step: held while the transmitter is busy, and otherwise `k` (R238, R263). -/
def whenReady (s : State) (k : State → State) : Host.Outcome State Fault Refusal :=
  if s.busy then .next s.hold else .next (k s)

/-- The reset action (R310): every register takes its reset value, a word at the port is discarded and nothing is
presented at the event port; `OUT`, the table and the other parameters, the pin and the environment stay. -/
def State.applyReset (s : State) : State :=
  { State.resetOf s.cfg with out := s.out, rst := s.rst, env := s.env }

end Sys2Proof.Machine
end

