-- ==== Sys2Proof/Machine/CodeTable.lean ====
section
/-!
DEFINITION. The CodeTable's two pure functions (R133 to R135). `none` is the sentinel: `NoMapping` of `encode`,
`NoMatch` of `decode`.
-/

namespace Sys2Proof.Machine

/-- "lowercase is normalized to uppercase before lookup": only a to z (R133, D29). -/
def normalise (c : Byte) : Byte := if 0x61#8 ≤ c ∧ c ≤ 0x7A#8 then c - 0x20#8 else c

/-- `encode(c)`: the code of the first entry with the normalised character (R133). -/
def encodeChar (table : List CodeEntry) (c : Byte) : Option CodeWord :=
  (table.find? (fun e => e.char == normalise c)).map CodeEntry.code

/-- `decode(L, B)`: the character of the first entry with that code, of at most 5 symbols (R134). -/
def decodeCode (table : List CodeEntry) (w : CodeWord) : Option Byte :=
  (table.find? (fun e => e.code == w && decide (w.len.toNat ≤ 5))).map CodeEntry.char

/-- A received buffer as a code word: `(LEN, zext_5(BUF[4:0]))` (R130, R203). -/
def bufferCode (c : Channel) : CodeWord := { len := c.len, bits := c.buf.extractLsb' 0 5 }

end Sys2Proof.Machine
end

