-- ==== Sys2Proof/Machine/Transmit.lean ====
section
/-!
DEFINITION. The transmitter: TXC (R231, R232), the millisecond sequencer that runs inside TICK (R233 to R237) and
the timing sequence of a character as a pure function (R230).
-/

namespace Sys2Proof.Machine

/-- The mark of symbol `i` of a code: `DOT_LENGTH` or `DASH_LENGTH`, DOT being 0 (R15, R230, R232). -/
def markLength (cfg : Config) (bits : BitVec 5) (i : Nat) : Nat :=
  if bits.getLsbD i then cfg.dashLength else cfg.dotLength

/-- `segments(L, B)`: the (level, milliseconds) pairs of one character (R230). -/
def segments (cfg : Config) (w : CodeWord) : List (Bool × Nat) :=
  (List.range w.len.toNat).flatMap (fun i => [(true, markLength cfg w.bits i), (false, cfg.dotLength)])
    ++ (if 0 < cfg.charGapMs then [(false, cfg.charGapMs)] else [])

/-- The total length of a list of segments. -/
def totalLength (segs : List (Bool × Nat)) : Nat := (segs.map Prod.snd).sum

/-- The level `n` milliseconds into a list of segments laid end to end; 0 after the last (R239). -/
def levelAt : List (Bool × Nat) → Nat → Bool
  | [], _ => false
  | seg :: rest, n => if n < seg.2 then seg.1 else levelAt rest (n - seg.2)

/-- The transmit registers at the start of a code's first mark (R232). -/
def startCharacter (cfg : Config) (w : CodeWord) : Transmitter :=
  { phase := .mark, len := w.len, bits := w.bits, idx := 0, cnt := markLength cfg w.bits 0, out := true }

/-- The end of a mark: the inter-symbol gap, `DOT_LENGTH` after a dot and after a dash alike (R235). -/
def endMark (cfg : Config) (t : Transmitter) : Transmitter :=
  { t with out := false, phase := .symgap, cnt := cfg.dotLength }

/-- The end of an inter-symbol gap: the next mark, or the inter-letter gap, or idle (R236). -/
def endSymgap (cfg : Config) (t : Transmitter) : Transmitter :=
  if t.idx.toNat + 1 < t.len.toNat then
    { t with idx := t.idx + 1, phase := .mark, out := true, cnt := markLength cfg t.bits (t.idx.toNat + 1) }
  else if 0 < cfg.charGapMs then { t with phase := .lgap, cnt := cfg.charGapMs }
  else { t with phase := .idle }

/-- The end of the inter-letter gap: the character is complete (R237). -/
def endLgap (t : Transmitter) : Transmitter := { t with phase := .idle }

/-- `segment_end()` (R234). It is never called in `IDLE`. -/
def segmentEnd (cfg : Config) (t : Transmitter) : Transmitter :=
  match t.phase with
  | .idle => t
  | .mark => endMark cfg t
  | .symgap => endSymgap cfg t
  | .lgap => endLgap t

/-- `tx_tick()`: one millisecond of the current segment (R233). `TX_CNT` is at least 1 here in every state a run
reaches, so the decrement never wraps (R53 (v); log 11). -/
def txTick (cfg : Config) (t : Transmitter) : Transmitter :=
  match t.phase with
  | .idle => t
  | _ =>
    let counted := { t with cnt := t.cnt - 1 }
    if counted.cnt = 0 then segmentEnd cfg counted else counted

/-- `TXC c` (R232): an unmapped byte is skipped and counted; a mapped one starts its first mark. -/
def execTxc (c : Byte) (s : State) : Host.Outcome State Fault Refusal :=
  whenReady s (fun s =>
    match encodeChar s.cfg.codeTable c with
    | none => s.countEncMiss
    | some w => s.setTx (startCharacter s.cfg w))

end Sys2Proof.Machine
end

