-- ==== Sys2Proof/Machine/Control.lean ====
section
/-!
DEFINITION. NOP (R262) and the clock strobe TICK (R260, R261).
-/

namespace Sys2Proof.Machine

/-- `NOP` (R262): held while the transmitter is busy, and otherwise nothing. -/
def execNop (s : State) : Host.Outcome State Fault Refusal := whenReady s (fun s => s)

/-- One millisecond: `NOW` advances, then the transmitter steps (R260, R261). -/
def tick (s : State) : State := s.advanceNow.setTx (txTick s.cfg s.tx)

/-- `TICK` (R260). It is never held (R238). -/
def execTick (s : State) : Host.Outcome State Fault Refusal := .next (tick s)

end Sys2Proof.Machine
end

