-- ==== Sys2Proof/Machine/Flags.lean ====
section
/-!
DEFINITION. The comparisons the commands take their decisions by (R153, R157, R158, R182, R205) and the block's
read-only outputs computed from its registers (R51, R291, R294, R296).
-/

namespace Sys2Proof.Machine

/-- `debounce_ok`: `DEBOUNCE_TIME` has elapsed since the last accepted transition (R157). -/
def debounceOk (cfg : Config) (now : Nat) (c : Channel) : Bool :=
  decide (cfg.debounceTime ≤ subT cfg.timeW now c.tTrans)

/-- `peak_ok`: `PEAK_DETECTION_THRESHOLD` has elapsed since the last accepted rising edge (R158). -/
def peakOk (cfg : Config) (now : Nat) (c : Channel) : Bool :=
  decide (cfg.peakDetectionThreshold ≤ subT cfg.timeW now c.tRise)

/-- `gap_ok`: the channel is inactive and `CHAR_GAP_MS` has elapsed since its last accepted falling edge (R205). -/
def gapOk (cfg : Config) (now : Nat) (c : Channel) : Bool :=
  !c.acc && decide (cfg.charGapMs ≤ subT cfg.timeW now c.tFall)

/-- `classify`: the smoothed value is above the threshold, strictly (R153). -/
def classify (cfg : Config) (smooth : Nat) : Bool := decide (cfg.soundThreshold < smooth)

/-- `classify_duration` (R182). -/
def classifyDuration (cfg : Config) (d : Nat) : Symbol := if d < cfg.dashThreshold then .dot else .dash

/-- The buffer holds `CAP` symbols (R40). -/
def full (cfg : Config) (c : Channel) : Bool := decide (c.len.toNat = cfg.maxMorseLength)

/-- The buffer holds a symbol. -/
def nonEmpty (c : Channel) : Bool := decide (0 < c.len.toNat)

/-- `TX_PHASE` as its two bits (R43). -/
def TxPhase.code : TxPhase → BitVec 2
  | .idle => 0
  | .mark => 1
  | .symgap => 2
  | .lgap => 3

/-- A field of a channel-1 or dual-source register in `STATUS`: 0 without `DUAL_SOURCE` (R51). -/
def State.ifDual {n : Nat} (s : State) (v : BitVec n) : BitVec n := if s.cfg.dualSource then v else 0

/-- The status output `STATUS`, bit 15 first (R51). -/
def State.status (s : State) : BitVec 16 :=
  0#2 ++ BitVec.ofBool s.ill ++ s.ifDual (BitVec.ofBool s.lastSrc.bit) ++ s.ifDual s.ch1.len ++ s.ch0.len
    ++ s.ifDual (BitVec.ofBool s.ch1.acc) ++ BitVec.ofBool s.ch0.acc ++ s.tx.phase.code
    ++ BitVec.ofBool s.tx.out ++ BitVec.ofBool s.busy

/-- `CMD_VALID` (R291). -/
def State.cmdValid (s : State) : Bool := s.port.isSome

/-- `CMD_READY` = (`TX_PHASE` = `IDLE`) (R291). -/
def State.cmdReady (s : State) : Bool := s.tx.phase == .idle

/-- `CHAR_VALID`: the last step presented an event; `charPort` lists `CHAR_SRC` and `CHAR_DATA` in order (R294). -/
def State.charValid (s : State) : Bool := !s.charPort.isEmpty

/-- What the block drives on its output ports (R296). -/
structure Outputs where
  cmdReady : Bool
  txOut : Bool
  charValid : Bool
  /-- `CHAR_SRC` and `CHAR_DATA` of the events presented, in order (R294). -/
  chars : List (Bool × Byte)
  status : BitVec 16
  decMiss : BitVec 16
  encMiss : BitVec 16
deriving DecidableEq, Repr

/-- The outputs, a function of the state: reading one has no side effect (R84, R296). -/
def State.outputs (s : State) : Outputs :=
  { cmdReady := s.cmdReady, txOut := s.tx.out, charValid := s.charValid,
    chars := s.charPort.map (fun e => (e.src.bit, e.char)), status := s.status, decMiss := s.decMiss,
    encMiss := s.encMiss }

end Sys2Proof.Machine
end

