-- ==== Sys2Proof/Machine/Operands.lean ====
section
/-!
DEFINITION. The operand forms of RXS (R106): the analog sample through the filter window and the mean (R151, R152),
and the digital level (R154). TXC's operand is a byte as it stands; no operand is shifted or sign-extended (R106).
-/

namespace Sys2Proof.Machine

/-- What a window slot takes from a sample: the sample, unsigned and unscaled (R106, R151), where it fits the slot's
`SAMPLE_W` bits (R12, R32), and otherwise a free value that fits them (log 4, DESIGN CHOICE, safe). -/
def slotSample (cfg : Config) (x : Sample) : Sample :=
  if x.toNat < 2 ^ cfg.sampleW then x
  else BitVec.ofNat 12 ((Config.wideSample cfg.sampleW x).toNat % 2 ^ cfg.sampleW)

/-- `filter` window write: the oldest slot takes the sample and `WIDX` moves on modulo N (R151). -/
def windowWrite (cfg : Config) (x : Sample) (c : Channel) : Channel :=
  { c with win := c.win.set c.widx.toNat (slotSample cfg x), widx := BitVec.ofNat 4 ((c.widx.toNat + 1) % cfg.filterSize) }

/-- The exact sum of the window's slots (R152). -/
def windowSum (win : List Sample) : Nat := (win.map BitVec.toNat).sum

/-- `filter` mean: the sum over N, rounded down (R152; log 15, UNVERIFIED against the source). -/
def smooth (cfg : Config) (win : List Sample) : Nat := windowSum win / cfg.filterSize

/-- `condition(k, x)`: the channel after the filter step, and the raw state (R151 to R154). A digital level bypasses
filter and threshold and writes no register (R154). -/
def condition (cfg : Config) (x : Sample) (c : Channel) : Channel × Bool :=
  match cfg.inputKind with
  | .analog => (windowWrite cfg x c, classify cfg (smooth cfg (windowWrite cfg x c).win))
  | .digital => (c, x.getLsbD 0)

end Sys2Proof.Machine
end

