-- ==== Sys2Proof/Machine/Receive.lean ====
section
/-!
DEFINITION. RXS, one poll of a channel (R150): transition acceptance (R156 to R159), the edge handlers (R180, R181),
the symbol assembler's append and flush (R201 to R203) and the flush triggers (R204 to R207).
-/

namespace Sys2Proof.Machine

/-- What `transition` returns (R150). -/
inductive Edge where
  | none
  | rise
  | fall
deriving DecidableEq, Repr

/-- The tests an accepted transition passes: debounce, and for a rising request the peak guard (R156 to R158). -/
def transitionOk (cfg : Config) (now : Nat) (raw : Bool) (c : Channel) : Bool :=
  debounceOk cfg now c && (!raw || peakOk cfg now c)

/-- `transition(k, raw, now)` (R156): a request that fails a test is dropped and leaves no trace (R159). -/
def transition (cfg : Config) (now : Nat) (raw : Bool) (c : Channel) : Channel × Edge :=
  if raw = c.acc then (c, .none)
  else if transitionOk cfg now raw c then
    ({ c with acc := raw, tTrans := now }, if raw then .rise else .fall)
  else (c, .none)

/-- The first half of a flush: the buffer's character is emitted, or the miss counted (R203). -/
def resolve (k : Chan) (s : State) : State :=
  match decodeCode s.cfg.codeTable (bufferCode (s.ch k)) with
  | some c => s.emit k c
  | none => s.countDecMiss

/-- `flush(k)`: the buffer is resolved and then emptied (R203). -/
def flush (k : Chan) (s : State) : State :=
  (resolve k s).setCh k { (resolve k s).ch k with len := 0, buf := 0 }

/-- A channel with one more symbol in its buffer (R201). -/
def pushSymbol (sym : Symbol) (c : Channel) : Channel :=
  { c with buf := setBit c.buf c.len.toNat sym.bit, len := c.len + 1 }

/-- Trigger (a), "checked immediately after the append" (R202). -/
def flushIfFull (k : Chan) (s : State) : State := if full s.cfg (s.ch k) then flush k s else s

/-- `append(k, sym)`: rejected at capacity; reaching capacity flushes at once (R201, R202). -/
def append (k : Chan) (sym : Symbol) (s : State) : State :=
  if full s.cfg (s.ch k) then s else flushIfFull k (s.setCh k (pushSymbol sym (s.ch k)))

/-- `pulse_start(k, now)` (R180). -/
def pulseStart (k : Chan) (now : Nat) (s : State) : State :=
  (s.setCh k { s.ch k with pend := true, start := now, tRise := now }).setLastSrc k

/-- `pulse_end(k, now)`: the pulse's duration, modulo 2^T, gives one symbol (R181 to R184). -/
def pulseEnd (k : Chan) (now : Nat) (s : State) : State :=
  append k (classifyDuration s.cfg (subT s.cfg.timeW now (s.ch k).start))
    (s.setCh k { s.ch k with pend := false, tFall := now })

/-- The edge handlers of one poll (R150). -/
def handleEdge (k : Chan) (now : Nat) (e : Edge) (s : State) : State :=
  match e with
  | .none => s
  | .rise => pulseStart k now s
  | .fall => pulseEnd k now s

/-- Channel `j` is due for a flush by trigger (a), (b) or (c) (R204 to R206). -/
def flushDue (now : Nat) (j : Chan) (s : State) : Bool :=
  full s.cfg (s.ch j)
    || (nonEmpty (s.ch j) && gapOk s.cfg now (s.ch j))
    || (s.cfg.dualSource && nonEmpty (s.ch j) && !(s.lastSrc == j))

/-- `flush_triggers(j, now)`: at most one flush of channel `j` (R204). -/
def flushTriggers (now : Nat) (s : State) (j : Chan) : State := if flushDue now j s then flush j s else s

/-- The triggers of every channel in increasing order (R150, R204). -/
def flushAll (now : Nat) (s : State) : State := s.cfg.channels.foldl (flushTriggers now) s

/-- The first half of a poll of channel `k`: conditioning and transition acceptance, on that channel alone. -/
def acceptEdge (cfg : Config) (now : Nat) (x : Sample) (c : Channel) : Channel × Edge :=
  transition cfg now (condition cfg x c).2 (condition cfg x c).1

/-- A poll of channel `k` up to its edge handlers, with the timestamp `NOW` (R150). -/
def afterEdge (k : Chan) (x : Sample) (s : State) : State :=
  handleEdge k s.now (acceptEdge s.cfg s.now x (s.ch k)).2 (s.setCh k (acceptEdge s.cfg s.now x (s.ch k)).1)

/-- One poll of channel `k`: its edge, then every channel's flush triggers (R150). -/
def poll (k : Chan) (x : Sample) (s : State) : State := flushAll s.now (afterEdge k x s)

/-- `RXS src, sample` (R150). Operands the instance does not have are those of an illegal word, which "is not an RXS"
(R150): it only sets `ILL` (R264). The decoder gives no such RXS (log 12, DESIGN CHOICE, safe). -/
def execRxs (k : Chan) (x : Sample) (s : State) : Host.Outcome State Fault Refusal :=
  whenReady s (fun s => if (Instr.rxs k x).wf s.cfg then poll k x s else s.raiseIll)

end Sys2Proof.Machine
end

