-- ==== Sys2Proof/Machine/Dispatch.lean ====
section
/-!
DEFINITION. The meaning of every instruction, one arm per constructor.
-/

namespace Sys2Proof.Machine

def exec (i : Instr) (s : State) : Host.Outcome State Fault Refusal :=
  match i with
  | .nop => Sys2Proof.Machine.execNop s
  | .rxs k x => Sys2Proof.Machine.execRxs k x s
  | .txc c => Sys2Proof.Machine.execTxc c s
  | .tick => Sys2Proof.Machine.execTick s

end Sys2Proof.Machine
end

