-- ==== Sys2Proof/Machine/Port.lean ====
section
/-!
DEFINITION. What one act of the environment does to the block: the host at the command port (R263, R291), the clock
strobe (R292) and the reset pin (R293, R310).
-/

namespace Sys2Proof.Machine

/-- The state at the start of an environment step: the act is taken from the environment's list, and the events of
the step before are no longer presented, each being presented for one step (R52, R294; log 9). -/
def State.beginStep (s : State) (rest : List EnvStep) : State := { s with env := rest, charPort := [] }

/-- The word at the port leaves it (R263). -/
def State.clearPort (s : State) : State := { s with port := none }

/-- The host presents a word. It must hold a word stable until it is taken (R291, R297), so another word over one
still waiting is refused (I12; log 8). While `RST` is asserted a word at the port is discarded (R310; log 10). -/
def presentWord (w : Word) (s : State) : Host.Outcome State Fault Refusal :=
  if s.rst then .next s
  else
    match s.port with
    | none => .next { s with port := some w }
    | some v => if v = w then .next s else .refused .heldWordChanged

/-- Performing the word taken from the port: its instruction, or the illegal word's effect (R263, R264). -/
def performWord (w : Word) (s : State) : Host.Outcome State Fault Refusal :=
  match decodeCmd s.cfg w with
  | .ok i => exec i s
  | .error _ => .next s.raiseIll

/-- A host step (R263): nothing without a word, a hold while the transmitter is busy, and otherwise the word leaves
the port and is performed. No host step is performed while `RST` is asserted (R293). -/
def hostStep (s : State) : Host.Outcome State Fault Refusal :=
  if s.rst then .next s
  else
    match s.port with
    | none => .next s
    | some w => if s.busy then .next s.hold else performWord w s.clearPort

/-- A clock step: one TICK, unless `RST` is asserted (R292, R293). -/
def clockStep (s : State) : Host.Outcome State Fault Refusal := if s.rst then .next s else exec .tick s

/-- The pin `RST` is driven to a level: the reset action at its assertion and at its release (R293, R310; log 10). -/
def resetStep (asserted : Bool) (s : State) : Host.Outcome State Fault Refusal :=
  if asserted || s.rst then .next { s.applyReset with rst := asserted } else .next s

/-- One act of the environment. -/
def envStep (e : EnvStep) (s : State) : Host.Outcome State Fault Refusal :=
  match e with
  | .present w => presentWord w s
  | .host => hostStep s
  | .clock => clockStep s
  | .reset asserted => resetStep asserted s

/-- One step: the environment's next act. A configuration that breaks R9 is no hardware instance and is refused
(log 7). When the environment does nothing more, nothing changes (R18; log 5). -/
def blockStep (s : State) : Host.Outcome State Fault Refusal :=
  if s.cfg.valid then
    match s.env with
    | [] => .next s
    | e :: rest => envStep e (s.beginStep rest)
  else .refused .invalidConfiguration

/-- `s` with an encoded input as what the very next step performs: a word waiting at the command port and the host's
step, or the clock's strobe (log 18). -/
def State.offer (s : State) (p : PortInput) : State :=
  match p with
  | .command w => { s with port := some w, rst := false, env := .host :: s.env }
  | .strobe => { s with rst := false, env := .clock :: s.env }

end Sys2Proof.Machine
end

