-- ==== Sys2Proof/Machine/Step.lean ====
section
/-!
DEFINITION. The step of the machine, and the placing of an instruction where the next step performs it.
-/

namespace Sys2Proof.Machine

/-- One step: one act of the environment (R17). -/
def step (s : State) : Host.Outcome State Fault Refusal := Sys2Proof.Machine.blockStep s

/-- `s` with the encoding `w` of an opcode-table row, of `nbits` bits, as what the very next step performs: the block
runs no stored program (R31, R90), so its program is what the host presents and the clock strobes (log 18). -/
def State.withFetchWord (s : State) (nbits w : Nat) : State :=
  match portInputOfTable nbits w with
  | none => s
  | some p => s.offer p

end Sys2Proof.Machine
end

