-- ==== Sys2Proof/Machine/Assembler.lean ====
section
/-!
DEFINITION. The assembly notation of R111 and the schedule macros of R112, as what the environment does to the block.
The notation is the spec's own and the macros "belong to the test programs, not to the block" (R112). What R111 and
R112 leave open of the notation (white space, the case of mnemonics, the form of a number) is log 22, and what a macro's
host does while the port is held is log 26: DESIGN CHOICE, safe, both.
-/

namespace Sys2Proof.Machine

/-- A line of assembly: a command or strobe (R111), or a macro (R112). -/
inductive AsmLine where
  | instr (i : Instr)
  /-- `SEND "s"`. -/
  | send (s : List Byte)
  /-- `TICKS n`. -/
  | ticks (n : Nat)
  /-- `LEVEL src, x, n`. -/
  | level (src : Chan) (x : Sample) (n : Nat)
  /-- `LEVEL2 x0, x1, n`. -/
  | level2 (x0 x1 : Sample) (n : Nat)
deriving DecidableEq, Repr

/-- `n` repetitions of a list of instructions (R112). -/
def repeatInstrs (n : Nat) (is : List Instr) : List Instr := (List.replicate n is).flatten

/-- The expansion of a line (R112). -/
def AsmLine.expand : AsmLine → List Instr
  | .instr i => [i]
  | .send s => s.map Instr.txc
  | .ticks n => List.replicate n .tick
  | .level src x n => repeatInstrs n [.rxs src x, .tick]
  | .level2 x0 x1 n => repeatInstrs n [.rxs .c0 x0, .rxs .c1 x1, .tick]

/-- The host's acts for the words it still has to have performed, oldest first, from the state `s`: it presents the
oldest word, or holds it if it waits already, and takes a host step (R291, R297). A busy block holds the word, and every
later word waits behind it (R238); a word taken makes room for the next at once (R263). Answers the acts, the state of
the registers after them, and the words still waiting (log 26, DESIGN CHOICE, safe). -/
def offerWords : List Word → State → List EnvStep × State × List Word
  | [], s => ([], s, [])
  | w :: rest, s =>
    if s.busy then ([.present w, .host], s, w :: rest)
    else
      match performWord w s with
      | .next t => (.present w :: .host :: (offerWords rest t).1, (offerWords rest t).2)
      | _ => ([.present w, .host], s, w :: rest)

/-- What the environment does for a list of instructions, from the state `s` and with `waiting` the words the host has
still to have performed: a command joins the waiting words, and a TICK, which is never held, is a strobe; after each the
host offers what waits (R105, R111, R112, R238; log 26). Words that wait at the end wait on: only a TICK lifts a hold. -/
def scheduleFrom : List Instr → List Word → State → List EnvStep
  | [], _, _ => []
  | i :: is, waiting, s =>
    match encode i with
    | .command w =>
      (offerWords (waiting ++ [w]) s).1
        ++ scheduleFrom is (offerWords (waiting ++ [w]) s).2.2 (offerWords (waiting ++ [w]) s).2.1
    | .strobe =>
      .clock :: (offerWords waiting (tick s)).1
        ++ scheduleFrom is (offerWords waiting (tick s)).2.2 (offerWords waiting (tick s)).2.1

/-- What the environment does for a program, from a state with no word at the port (R111, R112, R241; log 26). -/
def programSchedule (program : List AsmLine) (s : State) : List EnvStep :=
  scheduleFrom (program.flatMap AsmLine.expand) [] s

/-- A token of a line. -/
inductive AsmToken where
  /-- A mnemonic. -/
  | name (cs : List Char)
  | number (n : Nat)
  /-- A quoted character (R111). -/
  | quoted (c : Char)
  /-- A quoted string (R112). -/
  | text (cs : List Char)
  | comma
deriving DecidableEq, Repr

/-- The value of a hexadecimal digit. -/
def hexDigit (c : Char) : Option Nat :=
  if '0'.toNat ≤ c.toNat ∧ c.toNat ≤ '9'.toNat then some (c.toNat - '0'.toNat)
  else if 'a'.toNat ≤ c.toNat ∧ c.toNat ≤ 'f'.toNat then some (c.toNat - 'a'.toNat + 10)
  else if 'A'.toNat ≤ c.toNat ∧ c.toNat ≤ 'F'.toNat then some (c.toNat - 'A'.toNat + 10)
  else none

/-- The number a digit string writes in a base of at most 16. -/
def readDigits (base : Nat) : List Char → Nat → Option Nat
  | [], n => some n
  | c :: cs, n =>
    match hexDigit c with
    | none => none
    | some d => if d < base then readDigits base cs (n * base + d) else none

/-- A number in decimal or `0x` hex (R111). -/
def readNumber : List Char → Option Nat
  | '0' :: 'x' :: d :: ds => readDigits 16 (d :: ds) 0
  | d :: ds => readDigits 10 (d :: ds) 0
  | [] => none

/-- A word of a line: a number if it begins with a decimal digit, and otherwise a mnemonic. -/
def readWord (cs : List Char) : Option AsmToken :=
  match cs with
  | [] => none
  | c :: _ => if c.isDigit then (readNumber cs).map AsmToken.number else some (.name cs)

/-- Where the reader of a line stands. -/
inductive AsmMode where
  /-- Between tokens. -/
  | between
  /-- In a word, its characters so far in reverse. -/
  | word (acc : List Char)
  /-- After an opening apostrophe. -/
  | openQuote
  /-- After the character between apostrophes. -/
  | closeQuote (c : Char)
  /-- In a string, its characters so far in reverse. -/
  | string (acc : List Char)
deriving DecidableEq, Repr

/-- The tokens a mode still holds when a word may end there: the word's own token, or none. -/
def AsmMode.finish : AsmMode → Option (List AsmToken)
  | .between => some []
  | .word acc => (readWord acc.reverse).map ([·])
  | .openQuote => none
  | .closeQuote _ => none
  | .string _ => none

/-- What one character outside quotes makes of the reader: the tokens it ends or is, and the mode after it. -/
def AsmMode.plain (m : AsmMode) (c : Char) : Option (List AsmToken × AsmMode) :=
  if c.isWhitespace then m.finish.map (·, .between)
  else if c = ',' then m.finish.map (fun ts => (ts ++ [.comma], .between))
  else if c = Char.ofNat 39 then m.finish.map (·, .openQuote)
  else if c = Char.ofNat 34 then m.finish.map (·, .string [])
  else
    match m with
    | .word acc => some ([], .word (c :: acc))
    | _ => some ([], .word [c])

/-- The tokens of a line; a comment starts with `;` (R111). -/
def readTokens : List Char → AsmMode → Option (List AsmToken)
  | [], m => m.finish
  | c :: cs, .openQuote => readTokens cs (.closeQuote c)
  | c :: cs, .closeQuote q =>
    if c = Char.ofNat 39 then (readTokens cs .between).map (.quoted q :: ·) else none
  | c :: cs, .string acc =>
    if c = Char.ofNat 34 then (readTokens cs .between).map (.text acc.reverse :: ·) else readTokens cs (.string (c :: acc))
  | c :: cs, m =>
    if c = ';' then m.finish
    else
      match m.plain c with
      | none => none
      | some (ts, next) => (readTokens cs next).map (ts ++ ·)

/-- The channel a number names (R111). -/
def readChan : Nat → Option Chan
  | 0 => some .c0
  | 1 => some .c1
  | _ => none

/-- A sample operand, 0 to 4095 (R111). -/
def readSample (n : Nat) : Option Sample := if n < 4096 then some (BitVec.ofNat 12 n) else none

/-- A byte operand (R111). -/
def readByte (n : Nat) : Option Byte := if n < 256 then some (BitVec.ofNat 8 n) else none

/-- The bytes of a string of 8-bit characters. -/
def readBytes (cs : List Char) : Option (List Byte) := cs.mapM (fun c => readByte c.toNat)

/-- The line with mnemonic `name` and the operands `ops` (R111, R112). -/
def readCommand (name : String) (ops : List AsmToken) : Option AsmLine :=
  match name, ops with
  | "NOP", [] => some (.instr .nop)
  | "TICK", [] => some (.instr .tick)
  | "RXS", [.number x] => (readSample x).map (fun x => .instr (.rxs .c0 x))
  | "RXS", [.number k, .comma, .number x] =>
    (readChan k).bind (fun k => (readSample x).map (fun x => .instr (.rxs k x)))
  | "TXC", [.quoted c] => (readByte c.toNat).map (fun b => .instr (.txc b))
  | "TXC", [.number c] => (readByte c).map (fun b => .instr (.txc b))
  | "SEND", [.text cs] => (readBytes cs).map AsmLine.send
  | "TICKS", [.number n] => some (.ticks n)
  | "LEVEL", [.number k, .comma, .number x, .comma, .number n] =>
    (readChan k).bind (fun k => (readSample x).map (fun x => .level k x n))
  | "LEVEL2", [.number x0, .comma, .number x1, .comma, .number n] =>
    (readSample x0).bind (fun x0 => (readSample x1).map (fun x1 => .level2 x0 x1 n))
  | _, _ => none

/-- One line of assembly: `none` if it is not one, `some none` if it is empty or a comment (R111, R112). -/
def assembleLine (line : List Char) : Option (Option AsmLine) :=
  match readTokens line .between with
  | none => none
  | some [] => some none
  | some (.name cs :: ops) => (readCommand (String.ofList cs) ops).map some
  | some _ => none

end Sys2Proof.Machine
end

