-- ==== Sys2Proof/Safety.lean ====
section
/-!
DEFINITION. The terms claims are stated in: the invariants of R53 and of the register widths, running a list of
instructions, and what the environment may do without breaking its duties (R297).
-/

namespace Sys2Proof.Machine

/-- What holds of a channel's registers between steps. -/
structure ChannelInv (cfg : Config) (c : Channel) : Prop where
  /-- `WIN` has N slots (R32). -/
  winLength : c.win.length = cfg.filterSize
  /-- R53 (vii). -/
  widxBelowN : c.widx.toNat < cfg.filterSize
  /-- R53 (i). -/
  pendIsAcc : c.pend = c.acc
  /-- R53 (ii). -/
  pendingTimes : c.pend = true → c.start = c.tRise ∧ c.start = c.tTrans
  /-- "While `ACC` = 0, the last accepted transition was that falling edge, so `T_TRANS` = `T_FALL`" (R205). -/
  restTimes : c.acc = false → c.tTrans = c.tFall
  /-- R53 (iii). -/
  lenBelowCap : c.len.toNat < cfg.maxMorseLength
  /-- R53 (iv). -/
  emptySlots : ∀ i, c.len.toNat ≤ i → c.buf.getLsbD i = false
  /-- The time registers hold `TIME_W`-bit values (R12). -/
  timesInRange : c.start < 2 ^ cfg.timeW ∧ c.tTrans < 2 ^ cfg.timeW ∧ c.tRise < 2 ^ cfg.timeW ∧ c.tFall < 2 ^ cfg.timeW
  /-- The slots hold `SAMPLE_W`-bit values (R12, R32). -/
  slotsInRange : ∀ v ∈ c.win, v.toNat < 2 ^ cfg.sampleW

/-- What holds of the transmit registers between steps. -/
structure TxInv (cfg : Config) (t : Transmitter) : Prop where
  /-- R53 (v). -/
  idleIffZero : t.phase = .idle ↔ t.cnt = 0
  /-- R53 (vi), and with it the rest of (v): in `IDLE` the line is low. -/
  highIffMark : t.out = true ↔ t.phase = .mark
  /-- While a character is in progress `TX_LEN` is 1 to 5 and `TX_IDX` below it (R44). -/
  symbolInCode : t.phase ≠ .idle → 1 ≤ t.len.toNat ∧ t.len.toNat ≤ 5 ∧ t.idx.toNat < t.len.toNat
  /-- `TX_CNT` holds a `TIME_W`-bit value (R12). -/
  cntInRange : t.cnt < 2 ^ cfg.timeW

/-- What holds of a state between steps. -/
structure StateInv (s : State) : Prop where
  /-- The instance satisfies R9. -/
  cfgValid : s.cfg.valid = true
  ch0Inv : ChannelInv s.cfg s.ch0
  ch1Inv : ChannelInv s.cfg s.ch1
  txInv : TxInv s.cfg s.tx
  /-- `NOW` holds a `TIME_W`-bit value (R12). -/
  nowInRange : s.now < 2 ^ s.cfg.timeW
  /-- The registers a single-source instance lacks stay as reset left them (R10, R41; log 13). -/
  singleSource : s.cfg.dualSource = false → s.ch1 = Channel.reset s.cfg ∧ s.lastSrc = .c0
  /-- While `RST` is asserted the block holds the reset state (R293). -/
  heldInReset : s.rst = true → s.applyReset = s

/-- Every event emitted so far carries an uppercase letter or a digit (R52). -/
def OutIsText (s : State) : Prop := ∀ e ∈ s.out, e.char ∈ alphabet

/-- The instructions of a list performed one after the other, stopping where one stops. -/
def runInstrs : List Instr → State → Host.Outcome State Fault Refusal
  | [], s => .next s
  | i :: is, s =>
    match exec i s with
    | .next t => runInstrs is t
    | .fault r => .fault r
    | .refused r => .refused r

/-- `n` steps one after the other, stopping where one stops. -/
def runSteps : Nat → State → Host.Outcome State Fault Refusal
  | 0, s => .next s
  | n + 1, s =>
    match step s with
    | .next t => runSteps n t
    | .fault r => .fault r
    | .refused r => .refused r

/-- The run of a program: from `s` with the acts of its schedule, and no others, until they are done. -/
def runProgram (program : List AsmLine) (s : State) : Host.Outcome State Fault Refusal :=
  runSteps (programSchedule program s).length { s with env := programSchedule program s }

/-- What a byte of a string plays: its segments, or nothing where it has no mapping (R230, R240, R241). -/
def playedSegments (cfg : Config) (c : Byte) : List (Bool × Nat) :=
  match encodeChar cfg.codeTable c with
  | none => []
  | some w => segments cfg w

/-- Channel `j` exists and the rules flush its buffer at a poll that finds no edge: it holds a symbol, and either the
channel is at rest and the character gap has elapsed (R205), or another source took over (R206). -/
abbrev FlushWanted (s : State) (j : Chan) : Prop :=
  s.cfg.hasChannel j = true ∧ 0 < (s.ch j).len.toNat ∧
    (((s.ch j).acc = false ∧ s.cfg.charGapMs ≤ subT s.cfg.timeW s.now (s.ch j).tFall) ∨
      (s.cfg.dualSource = true ∧ s.lastSrc ≠ j))

/-- The code words a poll of channel `k` resolves, with their channels, in the order of R207: a full buffer of `k`, then
channel 0 by its triggers, then channel 1. -/
def pollFlushes (k : Chan) (x : Sample) (s : State) : List (Chan × CodeWord) :=
  (if (acceptEdge s.cfg s.now x (s.ch k)).2 = .fall ∧ (s.ch k).len.toNat + 1 = s.cfg.maxMorseLength then
    [(k, bufferCode (pushSymbol (classifyDuration s.cfg (subT s.cfg.timeW s.now (s.ch k).start)) (s.ch k)))] else [])
  ++ (s.cfg.channels.filter (fun j => flushDue s.now j (afterEdge k x s))).map
      (fun j => (j, bufferCode ((afterEdge k x s).ch j)))

/-- The events of resolved code words, in order: one for each that decodes (R203). -/
def resolvedEvents (cfg : Config) (flushes : List (Chan × CodeWord)) : List OutEvent :=
  flushes.filterMap (fun f => (decodeCode cfg.codeTable f.2).map (OutEvent.mk f.1))

/-- The host's next act is to present a word over a different one still waiting, which it must not do (R291, R297). -/
def breaksHold (s : State) : Bool :=
  match s.env, s.port with
  | .present w :: _, some v => !s.rst && !(v == w)
  | _, _ => false

/-- The environment's next act is `e`, with `rest` after it, on a valid instance whose reset pin is released: the
situation in which a step of the host or of the clock is performed (R293). -/
def Running (s : State) (e : EnvStep) (rest : List EnvStep) : Prop :=
  s.cfg.valid = true ∧ s.rst = false ∧ s.env = e :: rest

end Sys2Proof.Machine
end

