-- ==== Sys2Proof/Certificates/Slice0/Obligations.lean ====
section
/-!
DEFINITION. What the provers are asked to show of the model.
-/

open Sys2Proof Sys2Proof.Machine

/-! ## Encoding -/

/-- R101 to R107: every well-formed instruction, with every operand, decodes from its own encoding, on every instance. -/
def Obligations.DecodingAnEncodingGivesTheInstruction : Prop :=
  ∀ (cfg : Config) (i : Instr), i.wf cfg = true → decode cfg (encode i) = .ok i

/-- R107: a word that decodes is the encoding of what it decodes to, which the instance accepts. -/
def Obligations.ADecodedWordIsTheEncoding : Prop :=
  ∀ (cfg : Config) (w : Word) (i : Instr), decodeCmd cfg w = .ok i → encode i = .command w ∧ i.wf cfg = true

/-- R108: the illegal words are the five listed sets, and performing one changes nothing but `ILL`. -/
def Obligations.TheIllegalWordsAreTheListedOnes : Prop :=
  (∀ (cfg : Config) (w : Word), (∃ e, decodeCmd cfg w = .error e) ↔
    ((0x0001#16 ≤ w ∧ w ≤ 0x1FFF#16)
      ∨ (0x3000#16 ≤ w ∧ w ≤ 0x3FFF#16 ∧ cfg.dualSource = false)
      ∨ (cfg.inputKind = .digital ∧ w.extractLsb' 13 3 = 0b001#3 ∧ w.extractLsb' 1 11 ≠ 0#11)
      ∨ (0x4100#16 ≤ w ∧ w ≤ 0x5FFF#16)
      ∨ 0x6000#16 ≤ w)) ∧
  (∀ (s : State) (w : Word) (e : DecodeError), decodeCmd s.cfg w = .error e →
    performWord w s = .next { s with ill := true })

/-- R264: an illegal word at a ready port is consumed by the host step, which sets `ILL` and changes no other register
(the port convention is log 6). RXS with operands the instance does not have, which no word decodes to, does to the
registers what its illegal word does (log 12). -/
def Obligations.AnIllegalWordIsConsumedAndOnlySetsIll : Prop :=
  (∀ (s : State) (rest : List EnvStep) (w : Word) (e : DecodeError), Running s .host rest → s.busy = false →
    s.port = some w → decodeCmd s.cfg w = .error e →
    step s = .next { s with env := rest, charPort := [], port := none, ill := true }) ∧
  (∀ (s : State) (k : Chan) (x : Sample), s.busy = false → (Instr.rxs k x).wf s.cfg = false →
    exec (.rxs k x) s = .next { s with ill := true })

/-- R114: the worked encodings. -/
def Obligations.TheWorkedEncodings : Prop :=
  encode (.rxs .c0 4095) = .command 0x2FFF ∧ encode (.rxs .c1 0) = .command 0x3000 ∧
  encode (.rxs .c0 1) = .command 0x2001 ∧ encode (.txc 0x53) = .command 0x4053 ∧
  encode (.txc 0x4F) = .command 0x404F ∧ encode (.txc 0x65) = .command 0x4065 ∧
  encode (.txc 0x21) = .command 0x4021 ∧ encode .nop = .command 0x0000 ∧
  (∀ cfg : Config, (decodeCmd cfg 0x3000 = .ok (.rxs .c1 0) ↔ cfg.dualSource = true) ∧
    decodeCmd cfg 0x2001 = .ok (.rxs .c0 1) ∧
    (decodeCmd cfg 0x2FFF = .ok (.rxs .c0 4095) ↔ cfg.inputKind = .analog) ∧
    decodeCmd cfg 0x4053 = .ok (.txc 0x53) ∧ decodeCmd cfg 0x404F = .ok (.txc 0x4F) ∧
    decodeCmd cfg 0x4065 = .ok (.txc 0x65) ∧ decodeCmd cfg 0x4021 = .ok (.txc 0x21) ∧
    decodeCmd cfg 0x0000 = .ok .nop ∧ ∃ e, decodeCmd cfg 0x6000 = .error e)

/-! ## Steps of the environment -/

/-- R263: with the transmitter idle, a host step is the meaning of the instruction the waiting word decodes to, at the
state from which the word has left the port. -/
def Obligations.AHostStepRunsTheDecodedInstruction : Prop :=
  ∀ (s : State) (rest : List EnvStep) (w : Word) (i : Instr), Running s .host rest → s.port = some w →
    s.busy = false → decodeCmd s.cfg w = .ok i →
    step s = exec i { s with env := rest, charPort := [], port := none }

/-- R260, R292: a strobe on the clock port is a TICK, whatever the transmitter does and whatever waits at the command
port (R105, R238). -/
def Obligations.AClockStepRunsTick : Prop :=
  ∀ (s : State) (rest : List EnvStep), Running s .clock rest →
    step s = exec .tick { s with env := rest, charPort := [] }

/-- R238: while the transmitter is busy a host step changes nothing: any word, legal or not, stays at the port; and
`exec` of a command, called there, holds too. -/
def Obligations.AWordIsHeldWhileTheTransmitterIsBusy : Prop :=
  (∀ (s : State) (rest : List EnvStep), Running s .host rest → s.busy = true →
    step s = .next { s with env := rest, charPort := [] }) ∧
  (∀ (s : State) (i : Instr), i ≠ .tick → s.busy = true → exec i s = .next s)

/-- R291: on an instance out of reset, a host step takes the word at the port exactly when `CMD_VALID` and `CMD_READY`
are both 1. -/
def Obligations.AWordIsTakenExactlyWhenValidAndReady : Prop :=
  ∀ (s t : State) (rest : List EnvStep), Running s .host rest → step s = .next t →
    ((s.cmdValid = true ∧ t.cmdValid = false) ↔ (s.cmdValid = true ∧ s.cmdReady = true))

/-- R291: a word the host presents at an empty port waits there, and nothing else changes. -/
def Obligations.APresentedWordWaitsAtThePort : Prop :=
  ∀ (s : State) (rest : List EnvStep) (w : Word), Running s (.present w) rest → s.port = none →
    step s = .next { s with env := rest, charPort := [], port := some w }

/-- R297, I12 (log 8): presenting a word over a different one still waiting is refused; holding the same word is not. -/
def Obligations.ChangingAWaitingWordIsRefused : Prop :=
  ∀ (s : State) (rest : List EnvStep) (v w : Word), Running s (.present w) rest → s.port = some v →
    (v ≠ w → step s = .refused .heldWordChanged) ∧
    (v = w → step s = .next { s with env := rest, charPort := [] })

/-- R9: the parameters a model accepts, and every step of any other instance is refused. -/
def Obligations.AConfigurationOutsideItsBoundsIsRefused : Prop :=
  ∀ s : State,
    (s.cfg.valid = true ↔
      (1 ≤ s.cfg.filterSize ∧ s.cfg.filterSize ≤ 15) ∧ s.cfg.soundThreshold ≤ 4095 ∧
      (1 ≤ s.cfg.dotLength ∧ 1 ≤ s.cfg.dashLength) ∧
      (s.cfg.debounceTime < 2 ^ s.cfg.timeW ∧ s.cfg.peakDetectionThreshold < 2 ^ s.cfg.timeW ∧
        s.cfg.dashThreshold < 2 ^ s.cfg.timeW ∧ s.cfg.charGapMs < 2 ^ s.cfg.timeW ∧
        s.cfg.dotLength < 2 ^ s.cfg.timeW ∧ s.cfg.dashLength < 2 ^ s.cfg.timeW) ∧
      (1 ≤ s.cfg.maxMorseLength ∧ s.cfg.maxMorseLength ≤ 7) ∧
      (s.cfg.codeTable.map CodeEntry.char = alphabet ∧ s.cfg.codeTable.length = 36 ∧
        (∀ e ∈ s.cfg.codeTable, 1 ≤ e.code.len.toNat ∧ e.code.len.toNat ≤ 5 ∧
          ∀ i, e.code.len.toNat ≤ i → e.code.bits.getLsbD i = false) ∧
        (s.cfg.codeTable.map CodeEntry.code).Nodup)) ∧
    (s.cfg.valid = false → step s = .refused .invalidConfiguration)

/-- R280, R322: the block never stops. On a valid instance every step answers a next state, unless the host breaks its
duty to hold a waiting word. -/
def Obligations.TheBlockNeverStops : Prop :=
  ∀ s : State, s.cfg.valid = true → breaksHold s = false → ∃ t, step s = .next t

/-- R310: driving `RST` high, or low again after high, puts every register at its reset value and discards a waiting
word; `OUT` keeps its events and the code table is unchanged. -/
def Obligations.ResetPutsEveryRegisterAtItsResetValue : Prop :=
  ∀ (s : State) (rest : List EnvStep) (level : Bool), s.cfg.valid = true → s.env = .reset level :: rest →
    (level = true ∨ s.rst = true) →
    let zero : Channel :=
      { win := List.replicate s.cfg.filterSize 0, widx := 0, acc := false, pend := false, start := 0, tTrans := 0,
        tRise := 0, tFall := 0, len := 0, buf := 0 }
    step s = .next
      { cfg := s.cfg, ch0 := zero, ch1 := zero, lastSrc := .c0, now := 0,
        tx := { phase := .idle, len := 0, bits := 0, idx := 0, cnt := 0, out := false }, ill := false, decMiss := 0,
        encMiss := 0, out := s.out, charPort := [], port := none, rst := level, env := rest }

/-- R293: while `RST` is asserted no host step, no clock step and no presented word changes a register or the port. -/
def Obligations.NothingIsPerformedWhileResetIsAsserted : Prop :=
  ∀ (s : State) (rest : List EnvStep) (e : EnvStep), s.cfg.valid = true → s.rst = true → s.env = e :: rest →
    (∀ level, e ≠ .reset level) → step s = .next { s with env := rest, charPort := [] }

/-! ## NOP and TICK -/

/-- R262: NOP is the word 0, changes nothing when the port is ready, and is held, changing nothing, while the
transmitter is busy. -/
def Obligations.NopChangesNothing : Prop :=
  (∀ cfg : Config, decodeCmd cfg 0x0000 = .ok .nop ∧ encode .nop = .command 0x0000) ∧
  (∀ s : State, s.tx.phase = .idle → exec .nop s = .next s) ∧
  (∀ s : State, s.tx.phase ≠ .idle → exec .nop s = .next s)

/-- R260: TICK always completes; `NOW` moves on by 1 modulo 2^T and, transmit registers apart, nothing else changes:
no receive register, no flush, no counter, no output. -/
def Obligations.TickAdvancesTimeAndTouchesNoReceiveRegister : Prop :=
  ∀ s : State, ∃ tx, exec .tick s = .next { s with now := (s.now + 1) % 2 ^ s.cfg.timeW, tx := tx }

/-- R233: an idle transmitter does not move in a TICK; a segment with more than 1 ms left counts down by 1. -/
def Obligations.TickCountsTheSegmentDown : Prop :=
  ∀ s : State,
    (s.tx.phase = .idle → exec .tick s = .next { s with now := (s.now + 1) % 2 ^ s.cfg.timeW }) ∧
    (s.tx.phase ≠ .idle → 1 < s.tx.cnt →
      exec .tick s = .next { s with now := (s.now + 1) % 2 ^ s.cfg.timeW, tx := { s.tx with cnt := s.tx.cnt - 1 } })

/-- R235: the TICK that ends a mark. -/
def Obligations.AMarkEndsInTheSymbolGap : Prop :=
  ∀ s : State, s.tx.phase = .mark → s.tx.cnt = 1 →
    exec .tick s = .next { s with now := (s.now + 1) % 2 ^ s.cfg.timeW,
                                  tx := { s.tx with out := false, phase := .symgap, cnt := s.cfg.dotLength } }

/-- R236: the TICK that ends an inter-symbol gap: the next mark, the inter-letter gap, or idle. -/
def Obligations.ASymbolGapEndsInTheNextSegment : Prop :=
  ∀ s : State, s.tx.phase = .symgap → s.tx.cnt = 1 →
    exec .tick s = .next { s with
      now := (s.now + 1) % 2 ^ s.cfg.timeW
      tx :=
        if s.tx.idx.toNat + 1 < s.tx.len.toNat then
          { s.tx with
            idx := s.tx.idx + 1, phase := .mark, out := true
            cnt := if s.tx.bits.getLsbD (s.tx.idx.toNat + 1) then s.cfg.dashLength else s.cfg.dotLength }
        else if 0 < s.cfg.charGapMs then { s.tx with phase := .lgap, cnt := s.cfg.charGapMs }
        else { s.tx with phase := .idle, cnt := 0 } }

/-- R237: the TICK that ends the inter-letter gap: the transmitter is idle, the line stays as it is (low, by the
invariant), and the port is ready for a held command. -/
def Obligations.ALetterGapEndsInIdle : Prop :=
  ∀ s : State, s.tx.phase = .lgap → s.tx.cnt = 1 →
    ∃ t, exec .tick s = .next t ∧
      t = { s with now := (s.now + 1) % 2 ^ s.cfg.timeW, tx := { s.tx with phase := .idle, cnt := 0 } } ∧
      t.cmdReady = true ∧ (TxInv s.cfg s.tx → t.tx.out = false ∧ t.tx.cnt = 0)

/-! ## TXC and the transmitter -/

/-- R232: TXC of an unmapped byte counts a miss and does nothing else; of a mapped byte it starts the first mark and
does nothing else; a lowercase byte does what its uppercase form does; and the rule's example. -/
def Obligations.TxcStartsTheFirstMarkOrCountsAMiss : Prop :=
  (∀ (s : State) (c : Byte), s.busy = false → encodeChar s.cfg.codeTable c = none →
    exec (.txc c) s = .next { s with encMiss := s.encMiss + 1 }) ∧
  (∀ (s : State) (c : Byte) (w : CodeWord), s.busy = false → encodeChar s.cfg.codeTable c = some w →
    exec (.txc c) s = .next { s with
      tx := { phase := .mark, len := w.len, bits := w.bits, idx := 0, out := true
              cnt := if w.bits.getLsbD 0 then s.cfg.dashLength else s.cfg.dotLength } }) ∧
  (∀ (s : State) (c : Byte), s.busy = true → exec (.txc c) s = .next s) ∧
  (∀ (s : State) (c : Byte), 0x61 ≤ c → c ≤ 0x7A → exec (.txc c) s = exec (.txc (c - 0x20)) s) ∧
  (∀ s : State, s.cfg.valid = true → encodeChar s.cfg.codeTable 0x20 = none) ∧
  exec (.txc 0x53) { State.resetOf Config.ref with now := 1000 } = .next
    { State.resetOf Config.ref with
      now := 1000, tx := { phase := .mark, len := 3, bits := 0, idx := 0, cnt := 60, out := true } }

/-- R230, R239: after a TXC of a mapped byte and n TICKs, `TX_OUT` is the level n milliseconds into the character's
segments; the port is held until the segments' total length and ready from then on. -/
def Obligations.ACharacterPlaysItsSegments : Prop :=
  ∀ (s : State) (c : Byte) (w : CodeWord) (n : Nat), s.cfg.valid = true → s.busy = false →
    s.now < 2 ^ s.cfg.timeW → encodeChar s.cfg.codeTable c = some w → n ≤ totalLength (segments s.cfg w) →
    ∃ t, runInstrs (.txc c :: List.replicate n .tick) s = .next t ∧
      t.now = (s.now + n) % 2 ^ s.cfg.timeW ∧
      t.tx.out = levelAt (segments s.cfg w) n ∧
      (t.cmdReady = true ↔ n = totalLength (segments s.cfg w))

/-- R230: the total length of a character's sequence: its marks, a dot length after each, and the inter-letter gap. -/
def Obligations.TheLengthOfACharacter : Prop :=
  ∀ (cfg : Config) (w : CodeWord),
    totalLength (segments cfg w) =
      ((List.range w.len.toNat).map (fun i => if w.bits.getLsbD i then cfg.dashLength else cfg.dotLength)).sum
        + w.len.toNat * cfg.dotLength + cfg.charGapMs

/-- R240, R241: an unmapped byte, the space among them, takes no time: whatever is performed after it plays as without
it, but for the count of misses. And a string plays its characters in order, each from the TICK that ended the one before
it: `n` milliseconds into the run of `SEND` and `n` TICKs the line is at the level of the mapped bytes' segments laid end
to end, and the port is held until their total length (how the macro's host offers its words is log 26). -/
def Obligations.AStringPlaysItsCharactersInOrder : Prop :=
  (∀ (s : State) (c : Byte) (is : List Instr), s.busy = false → encodeChar s.cfg.codeTable c = none →
    runInstrs (.txc c :: is) s = runInstrs is { s with encMiss := s.encMiss + 1 }) ∧
  (∀ (s : State) (cs : List Byte) (n : Nat), s.cfg.valid = true → s.rst = false → s.port = none → s.busy = false →
    TxInv s.cfg s.tx → s.now < 2 ^ s.cfg.timeW →
    ∃ t, runProgram [.send cs, .ticks n] s = .next t ∧ t.env = [] ∧
      t.now = (s.now + n) % 2 ^ s.cfg.timeW ∧
      t.tx.out = levelAt (cs.flatMap (playedSegments s.cfg)) n ∧
      (totalLength (cs.flatMap (playedSegments s.cfg)) ≤ n → t.cmdReady = true ∧ t.port = none ∧
        t.encMiss = s.encMiss + BitVec.ofNat 16 (cs.countP (fun c => (encodeChar s.cfg.codeTable c).isNone))) ∧
      (n < totalLength (cs.flatMap (playedSegments s.cfg)) → t.cmdReady = false) ∧
      t.ch0 = s.ch0 ∧ t.ch1 = s.ch1 ∧ t.ill = s.ill ∧ t.out = s.out)

/-! ## CodeTable -/

/-- R136: round trips and uniqueness, for every table that satisfies R131. -/
def Obligations.TheCodeTableRoundTrips : Prop :=
  ∀ table : List CodeEntry, codeTableOk table = true →
    (∀ c ∈ alphabet, ∃ w, encodeChar table c = some w ∧ decodeCode table w = some c) ∧
    (∀ c : Byte, 0x61 ≤ c → c ≤ 0x7A → ∃ w, encodeChar table c = some w ∧ decodeCode table w = some (c - 0x20)) ∧
    (∀ i j : Fin table.length, i ≠ j → table[i].code ≠ table[j].code)

/-- R133: the bytes without a mapping are exactly those that are no letter, of either case, and no digit. -/
def Obligations.TheUnmappedBytes : Prop :=
  ∀ (table : List CodeEntry) (c : Byte), codeTableOk table = true →
    (encodeChar table c = none ↔
      c ≤ 0x2F ∨ (0x3A ≤ c ∧ c ≤ 0x40) ∨ (0x5B ≤ c ∧ c ≤ 0x60) ∨ 0x7B ≤ c)

/-- R137: with a capacity of 6 a buffer flushed because it is full emits nothing and counts a miss. -/
def Obligations.AFullBufferOfSixAlwaysMisses : Prop :=
  ∀ (s : State) (k : Chan), s.cfg.maxMorseLength = 6 → full s.cfg (s.ch k) = true →
    decodeCode s.cfg.codeTable (bufferCode (s.ch k)) = none ∧
    flush k s = State.setCh { s with decMiss := s.decMiss + 1 } k { s.ch k with len := 0, buf := 0 }

/-! ## RXS: conditioning -/

/-- R151: an analog poll writes the sample over the oldest slot and moves the index on, on its own channel only. A
sample too wide for a slot of `SAMPLE_W` bits leaves a free value of that width there (log 4). -/
def Obligations.AnAnalogPollWritesOneSlot : Prop :=
  ∀ (s : State) (k : Chan) (x : Sample), s.cfg.valid = true → s.busy = false → s.cfg.inputKind = .analog →
    s.cfg.hasChannel k = true →
    ∃ (t : State) (v : Sample), exec (.rxs k x) s = .next t ∧
      (x.toNat < 2 ^ s.cfg.sampleW → v = x) ∧ v.toNat < 2 ^ s.cfg.sampleW ∧
      (t.ch k).win = (s.ch k).win.set (s.ch k).widx.toNat v ∧
      (t.ch k).widx.toNat = ((s.ch k).widx.toNat + 1) % s.cfg.filterSize ∧
      (t.ch k.other).win = (s.ch k.other).win ∧ (t.ch k.other).widx = (s.ch k.other).widx

/-- R154: a digital poll takes its raw state from bit 0 and leaves every window alone. -/
def Obligations.ADigitalPollBypassesTheWindow : Prop :=
  ∀ (s : State) (k : Chan) (x : Sample), s.busy = false → s.cfg.inputKind = .digital →
    (Instr.rxs k x).wf s.cfg = true →
    (condition s.cfg x (s.ch k)).2 = x.getLsbD 0 ∧
    ∃ t, exec (.rxs k x) s = .next t ∧
      ∀ j, (t.ch j).win = (s.ch j).win ∧ (t.ch j).widx = (s.ch j).widx

/-- R152, R153: the raw state of an analog poll is active exactly when the window's sum, the new slot included, reaches
(SOUND_THRESHOLD + 1) · N; the new slot holds the sample where it fits `SAMPLE_W` bits (log 4). -/
def Obligations.TheRawStateOfAnAnalogPoll : Prop :=
  ∀ (cfg : Config) (x : Sample) (c : Channel), cfg.inputKind = .analog → 1 ≤ cfg.filterSize →
    ∃ v : Sample, (x.toNat < 2 ^ cfg.sampleW → v = x) ∧
      (condition cfg x c).1.win = c.win.set c.widx.toNat v ∧
      ((condition cfg x c).2 = true ↔
        (cfg.soundThreshold + 1) * cfg.filterSize ≤ ((c.win.set c.widx.toNat v).map BitVec.toNat).sum)

/-- R160: the mean lies between the least and the greatest slot of the window. -/
def Obligations.TheMeanStaysWithinTheWindow : Prop :=
  ∀ (cfg : Config) (win : List Sample) (lo hi : Nat), 1 ≤ cfg.filterSize → win.length = cfg.filterSize →
    (∀ v ∈ win, lo ≤ v.toNat ∧ v.toNat ≤ hi) → lo ≤ smooth cfg win ∧ smooth cfg win ≤ hi

/-- R160: after N analog polls of a channel its slots are exactly those N samples, each as its slot takes it: itself
where it fits `SAMPLE_W` bits (log 4). -/
def Obligations.TheWindowHoldsTheLastSamples : Prop :=
  ∀ (s : State) (k : Chan) (xs : List Sample), StateInv s → s.busy = false → s.cfg.inputKind = .analog →
    s.cfg.hasChannel k = true → xs.length = s.cfg.filterSize →
    ∃ t, runInstrs (xs.map (Instr.rxs k)) s = .next t ∧
      (∀ i, i < xs.length →
        (t.ch k).win[((s.ch k).widx.toNat + i) % s.cfg.filterSize]? = (xs.map (slotSample s.cfg))[i]?) ∧
      ((∀ x ∈ xs, x.toNat < 2 ^ s.cfg.sampleW) → ∀ i, i < xs.length →
        (t.ch k).win[((s.ch k).widx.toNat + i) % s.cfg.filterSize]? = xs[i]?)

/-- R161: for at most N analog polls of a channel whose window reset left empty, the mean is the sum of the samples so
far over N, each as its slot takes it: itself where it fits `SAMPLE_W` bits (log 4). -/
def Obligations.TheWarmUpMean : Prop :=
  ∀ (s : State) (k : Chan) (xs : List Sample), s.cfg.valid = true → s.busy = false → s.cfg.inputKind = .analog →
    s.cfg.hasChannel k = true → s.ch k = Channel.reset s.cfg → xs.length ≤ s.cfg.filterSize →
    ∃ t, runInstrs (xs.map (Instr.rxs k)) s = .next t ∧
      smooth s.cfg (t.ch k).win = ((xs.map (slotSample s.cfg)).map BitVec.toNat).sum / s.cfg.filterSize ∧
      ((∀ x ∈ xs, x.toNat < 2 ^ s.cfg.sampleW) →
        smooth s.cfg (t.ch k).win = (xs.map BitVec.toNat).sum / s.cfg.filterSize)

/-! ## RXS: transitions and pulses -/

/-- R156 to R158, R180: a rising request that passes both tests is accepted; what it writes and what it leaves. -/
def Obligations.AnAcceptedRisingEdge : Prop :=
  ∀ (s : State) (k : Chan) (x : Sample), s.busy = false → (Instr.rxs k x).wf s.cfg = true →
    (condition s.cfg x (s.ch k)).2 = true → (s.ch k).acc = false →
    s.cfg.debounceTime ≤ subT s.cfg.timeW s.now (s.ch k).tTrans →
    s.cfg.peakDetectionThreshold ≤ subT s.cfg.timeW s.now (s.ch k).tRise →
    ∃ t, exec (.rxs k x) s = .next t ∧
      (t.ch k).acc = true ∧ (t.ch k).pend = true ∧ (t.ch k).start = s.now ∧ (t.ch k).tRise = s.now ∧
      (t.ch k).tTrans = s.now ∧ (t.ch k).tFall = (s.ch k).tFall ∧
      t.lastSrc = (if s.cfg.dualSource then k else s.lastSrc)

/-- R156, R157, R181: a falling request that passes debounce is accepted; what it writes and what it leaves. -/
def Obligations.AnAcceptedFallingEdge : Prop :=
  ∀ (s : State) (k : Chan) (x : Sample), s.busy = false → (Instr.rxs k x).wf s.cfg = true →
    (condition s.cfg x (s.ch k)).2 = false → (s.ch k).acc = true →
    s.cfg.debounceTime ≤ subT s.cfg.timeW s.now (s.ch k).tTrans →
    ∃ t, exec (.rxs k x) s = .next t ∧
      (t.ch k).acc = false ∧ (t.ch k).pend = false ∧ (t.ch k).tFall = s.now ∧ (t.ch k).tTrans = s.now ∧
      (t.ch k).start = (s.ch k).start ∧ (t.ch k).tRise = (s.ch k).tRise ∧ t.lastSrc = s.lastSrc

/-- R181, R182, R201: an accepted falling edge appends one symbol, DOT below `DASH_THRESHOLD` and DASH from it on, in
the next free slot, where it does not fill the buffer, the gap is not 0 ms and the other source did not take over. -/
def Obligations.AFallingEdgeAppendsOneSymbol : Prop :=
  ∀ (s : State) (k : Chan) (x : Sample), StateInv s → s.busy = false → (Instr.rxs k x).wf s.cfg = true →
    (condition s.cfg x (s.ch k)).2 = false → (s.ch k).acc = true →
    s.cfg.debounceTime ≤ subT s.cfg.timeW s.now (s.ch k).tTrans →
    (s.ch k).len.toNat + 1 < s.cfg.maxMorseLength → 0 < s.cfg.charGapMs →
    (s.cfg.dualSource = true → s.lastSrc = k) →
    ∃ t, exec (.rxs k x) s = .next t ∧
      (t.ch k).len.toNat = (s.ch k).len.toNat + 1 ∧
      (t.ch k).buf.getLsbD (s.ch k).len.toNat
        = decide (s.cfg.dashThreshold ≤ subT s.cfg.timeW s.now (s.ch k).start) ∧
      ∀ i, i ≠ (s.ch k).len.toNat → (t.ch k).buf.getLsbD i = (s.ch k).buf.getLsbD i

/-- R156, R159: a poll without a request, its raw state being the accepted one, and a poll whose request fails a test,
leave no trace: the poll goes on from the conditioned channel to the flush triggers, and no edge register of any channel
is written, nor `LAST_SRC`, with one source or two. -/
def Obligations.ADroppedRequestLeavesNoTrace : Prop :=
  ∀ (s : State) (k : Chan) (x : Sample), s.busy = false → (Instr.rxs k x).wf s.cfg = true →
    ((condition s.cfg x (s.ch k)).2 = (s.ch k).acc ∨
      subT s.cfg.timeW s.now (s.ch k).tTrans < s.cfg.debounceTime ∨
      ((condition s.cfg x (s.ch k)).2 = true ∧
        subT s.cfg.timeW s.now (s.ch k).tRise < s.cfg.peakDetectionThreshold)) →
    ∃ t, exec (.rxs k x) s = .next t ∧ t = flushAll s.now (s.setCh k (condition s.cfg x (s.ch k)).1) ∧
      t.lastSrc = s.lastSrc ∧
      ∀ j, (t.ch j).acc = (s.ch j).acc ∧ (t.ch j).pend = (s.ch j).pend ∧ (t.ch j).start = (s.ch j).start ∧
        (t.ch j).tTrans = (s.ch j).tTrans ∧ (t.ch j).tRise = (s.ch j).tRise ∧ (t.ch j).tFall = (s.ch j).tFall

/-- R315: while a channel's timers are at their reset value, no transition is accepted before `DEBOUNCE_TIME` and no
rising edge before `PEAK_DETECTION_THRESHOLD`. -/
def Obligations.NothingIsAcceptedDuringTheHoldOff : Prop :=
  ∀ (s : State) (k : Chan) (x : Sample), s.busy = false → (Instr.rxs k x).wf s.cfg = true →
    s.now < 2 ^ s.cfg.timeW → (s.ch k).tTrans = 0 → (s.ch k).tRise = 0 → (s.ch k).acc = false →
    (s.now < s.cfg.debounceTime ∨ s.now < s.cfg.peakDetectionThreshold) →
    ∃ t, exec (.rxs k x) s = .next t ∧ (t.ch k).acc = false ∧ (t.ch k).tTrans = 0 ∧ (t.ch k).tRise = 0

/-- R182: the comparator, with its boundaries. -/
def Obligations.TheDurationComparator : Prop :=
  (∀ (cfg : Config) (d : Nat),
    (d < cfg.dashThreshold → classifyDuration cfg d = .dot) ∧
    (cfg.dashThreshold ≤ d → classifyDuration cfg d = .dash)) ∧
  (∀ cfg : Config, cfg.dashThreshold = 0 → ∀ d, classifyDuration cfg d = .dash) ∧
  (∀ cfg : Config, cfg.dashThreshold = 100 →
    classifyDuration cfg 0 = .dot ∧ classifyDuration cfg 99 = .dot ∧ classifyDuration cfg 100 = .dash ∧
    classifyDuration cfg 180 = .dash ∧ classifyDuration cfg (2 ^ 32 - 1) = .dash)

/-- R183, R321: an interval shorter than 2^T measures exactly, across the wrap of `NOW` too; one of 2^T measures 0. -/
def Obligations.DurationsAreExactAcrossTheWrap : Prop :=
  (∀ (w : Nat) (start d : Nat), d < 2 ^ w → subT w ((start + d) % 2 ^ w) start = d) ∧
  (∀ (w : Nat) (start : Nat), subT w ((start + 2 ^ w) % 2 ^ w) start = 0) ∧
  subT 32 0x00000040 0xFFFFFFF0 = 80

/-- R185: while the raw state of a single source stays active after an accepted rising edge, a poll changes its
window only: the pulse stays pending, no symbol comes and no flush. -/
def Obligations.AStuckActiveLineOnlyFillsTheWindow : Prop :=
  ∀ (s : State) (x : Sample), StateInv s → s.busy = false → s.cfg.dualSource = false →
    (Instr.rxs .c0 x).wf s.cfg = true → (condition s.cfg x s.ch0).2 = true → s.ch0.acc = true →
    exec (.rxs .c0 x) s = .next { s with ch0 := (condition s.cfg x s.ch0).1 }

/-! ## RXS: the symbol assembler -/

/-- R203: a flush emits the decoded character or counts the miss, empties the buffer, and does nothing else; a buffer
of six symbols or more decodes to nothing. -/
def Obligations.AFlushResolvesTheBuffer : Prop :=
  ∀ (s : State) (k : Chan),
    (∀ c, decodeCode s.cfg.codeTable { len := (s.ch k).len, bits := (s.ch k).buf.extractLsb' 0 5 } = some c →
      flush k s = (State.setCh { s with out := s.out ++ [⟨k, c⟩], charPort := s.charPort ++ [⟨k, c⟩] } k
        { s.ch k with len := 0, buf := 0 })) ∧
    (decodeCode s.cfg.codeTable { len := (s.ch k).len, bits := (s.ch k).buf.extractLsb' 0 5 } = none →
      flush k s = State.setCh { s with decMiss := s.decMiss + 1 } k { s.ch k with len := 0, buf := 0 }) ∧
    (6 ≤ (s.ch k).len.toNat →
      decodeCode s.cfg.codeTable { len := (s.ch k).len, bits := (s.ch k).buf.extractLsb' 0 5 } = none)

/-- R201, R202: an append at capacity is rejected; below it the next slot takes the symbol and nothing else changes;
the append that reaches capacity flushes at once. -/
def Obligations.AnAppendFillsTheNextSlot : Prop :=
  ∀ (s : State) (k : Chan) (sym : Symbol), s.cfg.maxMorseLength ≤ 7 →
    ((s.ch k).len.toNat = s.cfg.maxMorseLength → append k sym s = s) ∧
    ((s.ch k).len.toNat < s.cfg.maxMorseLength →
      ∃ buf : BitVec 7, buf.getLsbD (s.ch k).len.toNat = sym.bit ∧
        (∀ i, i ≠ (s.ch k).len.toNat → buf.getLsbD i = (s.ch k).buf.getLsbD i) ∧
        append k sym s =
          if (s.ch k).len.toNat + 1 = s.cfg.maxMorseLength
          then flush k (s.setCh k { s.ch k with buf := buf, len := (s.ch k).len + 1 })
          else s.setCh k { s.ch k with buf := buf, len := (s.ch k).len + 1 })

/-- R209 (i): from an empty buffer of capacity 6, six symbols flush exactly once, on the sixth: five leave five held
and nothing counted, six leave none, one miss and no event. -/
def Obligations.SixSymbolsFlushOnce : Prop :=
  ∀ (s : State) (k : Chan) (syms : List Symbol), s.cfg.maxMorseLength = 6 → (s.ch k).len = 0 → (s.ch k).buf = 0 →
    let after := syms.foldl (fun s sym => append k sym s) s
    (syms.length = 5 → (after.ch k).len = 5 ∧ after.decMiss = s.decMiss ∧ after.out = s.out) ∧
    (syms.length = 6 → after = { s with decMiss := s.decMiss + 1 })

/-- R204 to R206: a poll of either channel that accepts no edge flushes, in increasing order, exactly the channels whose
non-empty buffer is due (`FlushWanted`: at rest with `CHAR_GAP_MS` elapsed since the last accepted falling edge,
inclusively, or the source taken over), with one source or two, and does nothing else but condition its own channel: an
empty buffer, and one not due, stay as they are and count no miss. -/
def Obligations.TheGapFlushesTheBuffer : Prop :=
  ∀ (s : State) (k : Chan) (x : Sample), StateInv s → s.busy = false → (Instr.rxs k x).wf s.cfg = true →
    ((condition s.cfg x (s.ch k)).2 = (s.ch k).acc ∨
      subT s.cfg.timeW s.now (s.ch k).tTrans < s.cfg.debounceTime ∨
      ((condition s.cfg x (s.ch k)).2 = true ∧
        subT s.cfg.timeW s.now (s.ch k).tRise < s.cfg.peakDetectionThreshold)) →
    let u := s.setCh k (condition s.cfg x (s.ch k)).1
    (FlushWanted s .c0 → FlushWanted s .c1 → exec (.rxs k x) s = .next (flush .c1 (flush .c0 u))) ∧
    (FlushWanted s .c0 → ¬ FlushWanted s .c1 → exec (.rxs k x) s = .next (flush .c0 u)) ∧
    (¬ FlushWanted s .c0 → FlushWanted s .c1 → exec (.rxs k x) s = .next (flush .c1 u)) ∧
    (¬ FlushWanted s .c0 → ¬ FlushWanted s .c1 → exec (.rxs k x) s = .next u)

/-- R206: with two sources, a rising edge accepted on channel `k` flushes the other channel's non-empty buffer in the
same poll: its character is emitted or its miss counted, and no other event or miss comes. -/
def Obligations.ASourceChangeFlushesTheOtherBuffer : Prop :=
  ∀ (s : State) (k : Chan) (x : Sample), StateInv s → s.busy = false → s.cfg.dualSource = true →
    (Instr.rxs k x).wf s.cfg = true →
    (condition s.cfg x (s.ch k)).2 = true → (s.ch k).acc = false →
    s.cfg.debounceTime ≤ subT s.cfg.timeW s.now (s.ch k).tTrans →
    s.cfg.peakDetectionThreshold ≤ subT s.cfg.timeW s.now (s.ch k).tRise → 0 < (s.ch k.other).len.toNat →
    ∃ t, exec (.rxs k x) s = .next t ∧ t.lastSrc = k ∧
      (t.ch k.other).len = 0 ∧ (t.ch k.other).buf = 0 ∧ (t.ch k).len = (s.ch k).len ∧ (t.ch k).buf = (s.ch k).buf ∧
      (∀ c, decodeCode s.cfg.codeTable (bufferCode (s.ch k.other)) = some c →
        t.out = s.out ++ [⟨k.other, c⟩] ∧ t.decMiss = s.decMiss) ∧
      (decodeCode s.cfg.codeTable (bufferCode (s.ch k.other)) = none →
        t.out = s.out ∧ t.decMiss = s.decMiss + 1)

/-- R208: in every instruction, a channel's `LEN` stays, grows by one below capacity, or goes to 0. -/
def Obligations.TheAssemblersTransitions : Prop :=
  ∀ (s t : State) (i : Instr) (k : Chan), StateInv s → exec i s = .next t →
    (t.ch k).len = (s.ch k).len ∨
    ((t.ch k).len.toNat = (s.ch k).len.toNat + 1 ∧ (t.ch k).len.toNat < s.cfg.maxMorseLength) ∨
    (t.ch k).len = 0

/-- R207, R203: RXS always completes and emits at most one event per channel, two in all with two sources and one with
one; held, or with operands the instance does not have (log 12), it emits none. Otherwise the events are those of the
flushes of R207 in its order (the full buffer of `k`, then channel 0, then channel 1), each under its own channel, at
most one flush a channel, and each flush without an event counts one miss. -/
def Obligations.APollEmitsAtMostOneEventPerChannel : Prop :=
  ∀ (s : State) (k : Chan) (x : Sample), s.cfg.valid = true →
    ∃ t new, exec (.rxs k x) s = .next t ∧ t.out = s.out ++ new ∧ t.charPort = s.charPort ++ new ∧
      new.length ≤ (if s.cfg.dualSource then 2 else 1) ∧
      (∀ j, (new.filter (fun e => e.src = j)).length ≤ 1) ∧
      (s.busy = true ∨ (Instr.rxs k x).wf s.cfg = false → new = [] ∧ t.decMiss = s.decMiss) ∧
      (s.busy = false → (Instr.rxs k x).wf s.cfg = true →
        new = resolvedEvents s.cfg (pollFlushes k x s) ∧
        (∀ j, ((pollFlushes k x s).filter (fun f => f.1 = j)).length ≤ 1) ∧
        t.decMiss = s.decMiss + BitVec.ofNat 16 ((pollFlushes k x s).length - new.length))

/-- R200: what a poll does to its own channel does not depend on the other channel's registers. -/
def Obligations.ChannelsAreIndependent : Prop :=
  ∀ (s : State) (k : Chan) (x : Sample) (c : Channel),
    ∃ t u, exec (.rxs k x) s = .next t ∧ exec (.rxs k x) (s.setCh k.other c) = .next u ∧ t.ch k = u.ch k

/-- R150, R203, R204: the frame of RXS. A poll writes no time, no transmit register, no `ILL`, no `ENC_MISS`, no port and
no parameter, and held it writes nothing. The channel it does not name is emptied exactly where its triggers are due after
the edge, and then its character, if its buffer has one, is the one event emitted for it; otherwise it stays as it was and
emits nothing. -/
def Obligations.RxsFrame : Prop :=
  ∀ (s : State) (k : Chan) (x : Sample), (Instr.rxs k x).wf s.cfg = true →
    ∃ t new, exec (.rxs k x) s = .next t ∧
      t.cfg = s.cfg ∧ t.now = s.now ∧ t.tx = s.tx ∧ t.ill = s.ill ∧ t.encMiss = s.encMiss ∧ t.port = s.port ∧
      t.rst = s.rst ∧ t.env = s.env ∧ t.out = s.out ++ new ∧
      (s.busy = true → t = s) ∧
      (s.busy = false → s.cfg.hasChannel k.other = true → flushDue s.now k.other (afterEdge k x s) = true →
        t.ch k.other = { s.ch k.other with len := 0, buf := 0 } ∧
        new.filter (fun e => e.src = k.other) = resolvedEvents s.cfg [(k.other, bufferCode (s.ch k.other))]) ∧
      (s.busy = false → ¬ (s.cfg.hasChannel k.other = true ∧ flushDue s.now k.other (afterEdge k x s) = true) →
        t.ch k.other = s.ch k.other ∧ new.filter (fun e => e.src = k.other) = [])

/-! ## The whole machine -/

/-- R53, R12, R32, R41, R44, R205, R293: the invariants hold after every step from any state in which they hold. -/
def Obligations.EveryStepKeepsTheInvariants : Prop :=
  ∀ s t : State, StateInv s → step s = .next t → StateInv t

/-- R53, R56: the invariants hold at reset, of every valid instance. `State.reset` itself is the instance REF (log 2). -/
def Obligations.TheInvariantsHoldAtReset : Prop :=
  (∀ c : Config, c.valid = true → StateInv (State.resetOf c)) ∧ StateInv State.reset

/-- R42: only a TICK, or reset, changes `NOW`. -/
def Obligations.OnlyTickWritesNow : Prop :=
  ∀ s t : State, step s = .next t → t.now ≠ s.now →
    ∃ rest, s.env = .clock :: rest ∨ ∃ level, s.env = .reset level :: rest

/-- R52, R294: `OUT` only grows, reset included, and what a step adds to it is what it presents at the event port. -/
def Obligations.TheOutputStreamOnlyGrows : Prop :=
  ∀ (s t : State) (e : EnvStep) (rest : List EnvStep), s.env = e :: rest → step s = .next t →
    t.out = s.out ++ t.charPort

/-- R52: every step emits only uppercase letters and digits. -/
def Obligations.OnlyLettersAndDigitsAreEmitted : Prop :=
  ∀ s t : State, OutIsText s → step s = .next t → OutIsText t

/-- R47: `ILL` is sticky: only reset clears it. -/
def Obligations.IllIsSticky : Prop :=
  ∀ s t : State, s.ill = true → step s = .next t →
    t.ill = true ∨ ∃ level rest, s.env = .reset level :: rest

/-- R50, R135: no step writes a parameter, the code table among them. -/
def Obligations.NoStepWritesAParameter : Prop :=
  ∀ s t : State, step s = .next t → t.cfg = s.cfg

/-- R85, R266: no rule depends on `PLATFORM_MAP` or `POLL_PERIOD_MS`. -/
def Obligations.NoRuleDependsOnThePlatform : Prop :=
  ∀ (s t : State) (p : Option PlatformMap) (r : Option Nat), step s = .next t →
    step { s with cfg := { s.cfg with platformMap := p, pollPeriodMs := r } }
      = .next { t with cfg := { t.cfg with platformMap := p, pollPeriodMs := r } }

/-- R51: every bit of `STATUS`, its value after reset, and the counters beside it. -/
def Obligations.TheStatusOutput : Prop :=
  (∀ s : State,
    (s.status.getLsbD 0 = true ↔ s.tx.phase ≠ .idle) ∧
    s.status.getLsbD 1 = s.tx.out ∧
    s.status.extractLsb' 2 2 =
      (match s.tx.phase with | .idle => 0#2 | .mark => 1#2 | .symgap => 2#2 | .lgap => 3#2) ∧
    s.status.getLsbD 4 = s.ch0.acc ∧
    s.status.getLsbD 5 = (s.cfg.dualSource && s.ch1.acc) ∧
    s.status.extractLsb' 6 3 = s.ch0.len ∧
    s.status.extractLsb' 9 3 = (if s.cfg.dualSource then s.ch1.len else 0) ∧
    (s.status.getLsbD 12 = true ↔ s.cfg.dualSource = true ∧ s.lastSrc = .c1) ∧
    s.status.getLsbD 13 = s.ill ∧
    s.status.extractLsb' 14 2 = 0 ∧
    s.outputs.status = s.status ∧ s.outputs.decMiss = s.decMiss ∧ s.outputs.encMiss = s.encMiss) ∧
  (∀ c : Config, (State.resetOf c).status = 0)
end

