-- ==== Sys2Proof/Laws/CodeTable.lean ====
section
/-!
SUPPORT. What the lookups of the CodeTable answer.
-/

namespace Sys2Proof.Machine

theorem mem_alphabet (c : Byte) :
    c ∈ alphabet ↔ (0x41 ≤ c.toNat ∧ c.toNat ≤ 0x5A) ∨ (0x30 ≤ c.toNat ∧ c.toNat ≤ 0x39) := by
  simp only [alphabet, List.mem_append, List.mem_map, List.mem_range, ← BitVec.toNat_inj]
  have := c.isLt
  constructor
  · rintro (⟨i, hi, h⟩ | ⟨i, hi, h⟩) <;> simp at h <;> omega
  · rintro (h | h)
    · exact .inl ⟨c.toNat - 0x41, by omega, by simp; omega⟩
    · exact .inr ⟨c.toNat - 0x30, by omega, by simp; omega⟩

theorem normalise_toNat (c : Byte) :
    (normalise c).toNat = if 0x61 ≤ c.toNat ∧ c.toNat ≤ 0x7A then c.toNat - 0x20 else c.toNat := by
  have := c.isLt
  unfold normalise
  simp only [BitVec.le_def]
  by_cases h : 97 ≤ c.toNat ∧ c.toNat ≤ 122
  · have h' : (97#8).toNat ≤ c.toNat ∧ c.toNat ≤ (122#8).toNat := h
    rw [if_pos h', if_pos h, BitVec.toNat_sub]; simp; omega
  · have h' : ¬ ((97#8).toNat ≤ c.toNat ∧ c.toNat ≤ (122#8).toNat) := h
    rw [if_neg h', if_neg h]

/-- The three invariants of R131. -/
theorem codeTableOk_iff (t : List CodeEntry) :
    codeTableOk t = true ↔ t.map CodeEntry.char = alphabet ∧ (t.map CodeEntry.code).all CodeWord.ok = true ∧
      codesDistinct (t.map CodeEntry.code) = true := by
  simp [codeTableOk, and_assoc]

theorem codeTableOk_of_valid {c : Config} (h : c.valid = true) : codeTableOk c.codeTable = true := by
  simp only [Config.valid, Bool.and_eq_true] at h; exact h.2

theorem encodeChar_eq_none_iff {t : List CodeEntry} (h : t.map CodeEntry.char = alphabet) (c : Byte) :
    encodeChar t c = none ↔ normalise c ∉ alphabet := by
  rw [← h]; simp [encodeChar, List.find?_eq_none]

/-- A character's code has 1 to 5 symbols (R131). -/
theorem encodeChar_len {t : List CodeEntry} (h : codeTableOk t = true) {c : Byte} {w : CodeWord}
    (e : encodeChar t c = some w) : 1 ≤ w.len.toNat ∧ w.len.toNat ≤ 5 := by
  simp only [encodeChar, Option.map_eq_some_iff] at e
  obtain ⟨a, ha, rfl⟩ := e
  have ok := List.all_eq_true.1 ((codeTableOk_iff t).1 h).2.1 a.code
    (List.mem_map_of_mem (List.mem_of_find?_eq_some ha))
  simp [CodeWord.ok] at ok; omega

/-- What `decode` answers is a character of the table (R134). -/
theorem decodeCode_mem {t : List CodeEntry} {w : CodeWord} {c : Byte} (e : decodeCode t w = some c) :
    c ∈ t.map CodeEntry.char := by
  simp only [decodeCode, Option.map_eq_some_iff] at e
  obtain ⟨a, ha, rfl⟩ := e
  exact List.mem_map_of_mem (List.mem_of_find?_eq_some ha)

end Sys2Proof.Machine
end

