-- ==== Sys2Proof/Laws/Decode.lean ====
section
/-!
SUPPORT. The fields of a command word, and the words of the encoder, as numbers.
-/

namespace Sys2Proof

theorem opField_toNat (w : Word) : (opField w).toNat = w.toNat / 8192 := by
  have := w.isLt
  simp [opField, BitVec.extractLsb'_toNat, Nat.shiftRight_eq_div_pow]; omega

theorem sampleField_toNat (w : Word) : (sampleField w).toNat = w.toNat % 4096 := by simp [sampleField]

theorem charField_toNat (w : Word) : (charField w).toNat = w.toNat % 256 := by simp [charField]

theorem txcZeros_toNat (w : Word) : (txcZeros w).toNat = w.toNat / 256 % 32 := by
  simp [txcZeros, BitVec.extractLsb'_toNat, Nat.shiftRight_eq_div_pow]

theorem srcField_eq_c1_iff (w : Word) : srcField w = .c1 ↔ w.toNat / 4096 % 2 = 1 := by
  simp only [srcField, BitVec.getLsbD, Nat.testBit_eq_decide_div_mod_eq]
  by_cases h : w.toNat / 2 ^ 12 % 2 = 1
  · rw [decide_eq_true h]; simp [Chan.ofBit]; simpa using h
  · rw [decide_eq_false h]; simp [Chan.ofBit]; simpa using h

theorem rxsWord_toNat (k : Chan) (x : Sample) :
    (rxsWord k x).toNat = 8192 + (if k = .c1 then 4096 else 0) + x.toNat := by
  have := x.isLt
  simp only [rxsWord, BitVec.toNat_append]
  rw [← Nat.shiftLeft_add_eq_or_of_lt x.isLt]
  cases k <;> simp [Chan.bit, Nat.shiftLeft_eq]

theorem txcWord_toNat (c : Byte) : (txcWord c).toNat = 16384 + c.toNat := by
  have := c.isLt
  simp only [txcWord, BitVec.toNat_append]
  rw [← Nat.shiftLeft_add_eq_or_of_lt c.isLt]
  simp [Nat.shiftLeft_eq]

end Sys2Proof
end

