-- ==== Sys2Proof/Laws/State.lean ====
section
/-!
SUPPORT. One lemma per field per named update of State, so that no later proof unfolds a record update.
-/

namespace Sys2Proof.Machine

@[simp] theorem chan_other_other (k : Chan) : k.other.other = k := by cases k <;> rfl

@[simp] theorem chan_other_ne (k : Chan) : k.other ≠ k := by cases k <;> decide

theorem chan_eq_or_other (j k : Chan) : j = k ∨ j = k.other := by cases j <;> cases k <;> decide

/-! Writing one channel. -/

@[simp] theorem State.ch_setCh_self (s : State) (k : Chan) (c : Channel) : (s.setCh k c).ch k = c := by cases k <;> rfl

@[simp] theorem State.ch_setCh_other (s : State) (k : Chan) (c : Channel) : (s.setCh k c).ch k.other = s.ch k.other := by
  cases k <;> rfl

@[simp] theorem State.ch_other_setCh (s : State) (k : Chan) (c : Channel) : (s.setCh k.other c).ch k = s.ch k := by
  cases k <;> rfl

theorem State.ch_setCh (s : State) (j k : Chan) (c : Channel) :
    (s.setCh k c).ch j = if j = k then c else s.ch j := by
  cases j <;> cases k <;> rfl

@[simp] theorem State.setCh_setCh (s : State) (k : Chan) (c d : Channel) : (s.setCh k c).setCh k d = s.setCh k d := by
  cases k <;> rfl

@[simp] theorem State.setCh_ch (s : State) (k : Chan) : s.setCh k (s.ch k) = s := by cases k <;> rfl

@[simp] theorem State.setCh_cfg (s : State) (k : Chan) (c : Channel) : (s.setCh k c).cfg = s.cfg := by cases k <;> rfl

@[simp] theorem State.setCh_lastSrc (s : State) (k : Chan) (c : Channel) : (s.setCh k c).lastSrc = s.lastSrc := by cases k <;> rfl

@[simp] theorem State.setCh_now (s : State) (k : Chan) (c : Channel) : (s.setCh k c).now = s.now := by cases k <;> rfl

@[simp] theorem State.setCh_tx (s : State) (k : Chan) (c : Channel) : (s.setCh k c).tx = s.tx := by cases k <;> rfl

@[simp] theorem State.setCh_ill (s : State) (k : Chan) (c : Channel) : (s.setCh k c).ill = s.ill := by cases k <;> rfl

@[simp] theorem State.setCh_decMiss (s : State) (k : Chan) (c : Channel) : (s.setCh k c).decMiss = s.decMiss := by cases k <;> rfl

@[simp] theorem State.setCh_encMiss (s : State) (k : Chan) (c : Channel) : (s.setCh k c).encMiss = s.encMiss := by cases k <;> rfl

@[simp] theorem State.setCh_out (s : State) (k : Chan) (c : Channel) : (s.setCh k c).out = s.out := by cases k <;> rfl

@[simp] theorem State.setCh_charPort (s : State) (k : Chan) (c : Channel) : (s.setCh k c).charPort = s.charPort := by cases k <;> rfl

@[simp] theorem State.setCh_port (s : State) (k : Chan) (c : Channel) : (s.setCh k c).port = s.port := by cases k <;> rfl

@[simp] theorem State.setCh_rst (s : State) (k : Chan) (c : Channel) : (s.setCh k c).rst = s.rst := by cases k <;> rfl

@[simp] theorem State.setCh_env (s : State) (k : Chan) (c : Channel) : (s.setCh k c).env = s.env := by cases k <;> rfl

/-! `LAST_SRC` exists only with two sources. -/

@[simp] theorem State.setLastSrc_lastSrc (s : State) (k : Chan) :
    (s.setLastSrc k).lastSrc = if s.cfg.dualSource then k else s.lastSrc := by
  unfold State.setLastSrc; split <;> rfl

@[simp] theorem State.setLastSrc_ch (s : State) (j k : Chan) : (s.setLastSrc k).ch j = s.ch j := by
  unfold State.setLastSrc; split <;> rfl

@[simp] theorem State.setLastSrc_cfg (s : State) (k : Chan) : (s.setLastSrc k).cfg = s.cfg := by
  unfold State.setLastSrc; split <;> rfl

@[simp] theorem State.setLastSrc_now (s : State) (k : Chan) : (s.setLastSrc k).now = s.now := by
  unfold State.setLastSrc; split <;> rfl

@[simp] theorem State.setLastSrc_tx (s : State) (k : Chan) : (s.setLastSrc k).tx = s.tx := by
  unfold State.setLastSrc; split <;> rfl

@[simp] theorem State.setLastSrc_ill (s : State) (k : Chan) : (s.setLastSrc k).ill = s.ill := by
  unfold State.setLastSrc; split <;> rfl

@[simp] theorem State.setLastSrc_decMiss (s : State) (k : Chan) : (s.setLastSrc k).decMiss = s.decMiss := by
  unfold State.setLastSrc; split <;> rfl

@[simp] theorem State.setLastSrc_encMiss (s : State) (k : Chan) : (s.setLastSrc k).encMiss = s.encMiss := by
  unfold State.setLastSrc; split <;> rfl

@[simp] theorem State.setLastSrc_out (s : State) (k : Chan) : (s.setLastSrc k).out = s.out := by
  unfold State.setLastSrc; split <;> rfl

@[simp] theorem State.setLastSrc_charPort (s : State) (k : Chan) : (s.setLastSrc k).charPort = s.charPort := by
  unfold State.setLastSrc; split <;> rfl

@[simp] theorem State.setLastSrc_port (s : State) (k : Chan) : (s.setLastSrc k).port = s.port := by
  unfold State.setLastSrc; split <;> rfl

@[simp] theorem State.setLastSrc_rst (s : State) (k : Chan) : (s.setLastSrc k).rst = s.rst := by
  unfold State.setLastSrc; split <;> rfl

@[simp] theorem State.setLastSrc_env (s : State) (k : Chan) : (s.setLastSrc k).env = s.env := by
  unfold State.setLastSrc; split <;> rfl

@[simp] theorem State.setLastSrc_ch0 (s : State) (k : Chan) : (s.setLastSrc k).ch0 = s.ch0 := by
  unfold State.setLastSrc; split <;> rfl

@[simp] theorem State.setLastSrc_ch1 (s : State) (k : Chan) : (s.setLastSrc k).ch1 = s.ch1 := by
  unfold State.setLastSrc; split <;> rfl

/-! `emit`. -/

@[simp] theorem State.emit_ch (s : State) (k : Chan) (c : Byte) (j : Chan) : (s.emit k c).ch j = s.ch j := by cases j <;> rfl

@[simp] theorem State.emit_cfg (s : State) (k : Chan) (c : Byte) : (s.emit k c).cfg = s.cfg := rfl

@[simp] theorem State.emit_lastSrc (s : State) (k : Chan) (c : Byte) : (s.emit k c).lastSrc = s.lastSrc := rfl

@[simp] theorem State.emit_now (s : State) (k : Chan) (c : Byte) : (s.emit k c).now = s.now := rfl

@[simp] theorem State.emit_tx (s : State) (k : Chan) (c : Byte) : (s.emit k c).tx = s.tx := rfl

@[simp] theorem State.emit_ill (s : State) (k : Chan) (c : Byte) : (s.emit k c).ill = s.ill := rfl

@[simp] theorem State.emit_decMiss (s : State) (k : Chan) (c : Byte) : (s.emit k c).decMiss = s.decMiss := rfl

@[simp] theorem State.emit_encMiss (s : State) (k : Chan) (c : Byte) : (s.emit k c).encMiss = s.encMiss := rfl

@[simp] theorem State.emit_out (s : State) (k : Chan) (c : Byte) : (s.emit k c).out = s.out ++ [⟨k, c⟩] := rfl

@[simp] theorem State.emit_charPort (s : State) (k : Chan) (c : Byte) : (s.emit k c).charPort = s.charPort ++ [⟨k, c⟩] := rfl

@[simp] theorem State.emit_port (s : State) (k : Chan) (c : Byte) : (s.emit k c).port = s.port := rfl

@[simp] theorem State.emit_rst (s : State) (k : Chan) (c : Byte) : (s.emit k c).rst = s.rst := rfl

@[simp] theorem State.emit_env (s : State) (k : Chan) (c : Byte) : (s.emit k c).env = s.env := rfl

@[simp] theorem State.emit_ch0 (s : State) (k : Chan) (c : Byte) : (s.emit k c).ch0 = s.ch0 := rfl

@[simp] theorem State.emit_ch1 (s : State) (k : Chan) (c : Byte) : (s.emit k c).ch1 = s.ch1 := rfl

/-! `countDecMiss`. -/

@[simp] theorem State.countDecMiss_ch (s : State) (j : Chan) : (s.countDecMiss).ch j = s.ch j := by cases j <;> rfl

@[simp] theorem State.countDecMiss_cfg (s : State) : (s.countDecMiss).cfg = s.cfg := rfl

@[simp] theorem State.countDecMiss_lastSrc (s : State) : (s.countDecMiss).lastSrc = s.lastSrc := rfl

@[simp] theorem State.countDecMiss_now (s : State) : (s.countDecMiss).now = s.now := rfl

@[simp] theorem State.countDecMiss_tx (s : State) : (s.countDecMiss).tx = s.tx := rfl

@[simp] theorem State.countDecMiss_ill (s : State) : (s.countDecMiss).ill = s.ill := rfl

@[simp] theorem State.countDecMiss_decMiss (s : State) : (s.countDecMiss).decMiss = s.decMiss + 1 := rfl

@[simp] theorem State.countDecMiss_encMiss (s : State) : (s.countDecMiss).encMiss = s.encMiss := rfl

@[simp] theorem State.countDecMiss_out (s : State) : (s.countDecMiss).out = s.out := rfl

@[simp] theorem State.countDecMiss_charPort (s : State) : (s.countDecMiss).charPort = s.charPort := rfl

@[simp] theorem State.countDecMiss_port (s : State) : (s.countDecMiss).port = s.port := rfl

@[simp] theorem State.countDecMiss_rst (s : State) : (s.countDecMiss).rst = s.rst := rfl

@[simp] theorem State.countDecMiss_env (s : State) : (s.countDecMiss).env = s.env := rfl

@[simp] theorem State.countDecMiss_ch0 (s : State) : (s.countDecMiss).ch0 = s.ch0 := rfl

@[simp] theorem State.countDecMiss_ch1 (s : State) : (s.countDecMiss).ch1 = s.ch1 := rfl

/-! `countEncMiss`. -/

@[simp] theorem State.countEncMiss_ch (s : State) (j : Chan) : (s.countEncMiss).ch j = s.ch j := by cases j <;> rfl

@[simp] theorem State.countEncMiss_cfg (s : State) : (s.countEncMiss).cfg = s.cfg := rfl

@[simp] theorem State.countEncMiss_lastSrc (s : State) : (s.countEncMiss).lastSrc = s.lastSrc := rfl

@[simp] theorem State.countEncMiss_now (s : State) : (s.countEncMiss).now = s.now := rfl

@[simp] theorem State.countEncMiss_tx (s : State) : (s.countEncMiss).tx = s.tx := rfl

@[simp] theorem State.countEncMiss_ill (s : State) : (s.countEncMiss).ill = s.ill := rfl

@[simp] theorem State.countEncMiss_decMiss (s : State) : (s.countEncMiss).decMiss = s.decMiss := rfl

@[simp] theorem State.countEncMiss_encMiss (s : State) : (s.countEncMiss).encMiss = s.encMiss + 1 := rfl

@[simp] theorem State.countEncMiss_out (s : State) : (s.countEncMiss).out = s.out := rfl

@[simp] theorem State.countEncMiss_charPort (s : State) : (s.countEncMiss).charPort = s.charPort := rfl

@[simp] theorem State.countEncMiss_port (s : State) : (s.countEncMiss).port = s.port := rfl

@[simp] theorem State.countEncMiss_rst (s : State) : (s.countEncMiss).rst = s.rst := rfl

@[simp] theorem State.countEncMiss_env (s : State) : (s.countEncMiss).env = s.env := rfl

@[simp] theorem State.countEncMiss_ch0 (s : State) : (s.countEncMiss).ch0 = s.ch0 := rfl

@[simp] theorem State.countEncMiss_ch1 (s : State) : (s.countEncMiss).ch1 = s.ch1 := rfl

/-! `raiseIll`. -/

@[simp] theorem State.raiseIll_ch (s : State) (j : Chan) : (s.raiseIll).ch j = s.ch j := by cases j <;> rfl

@[simp] theorem State.raiseIll_cfg (s : State) : (s.raiseIll).cfg = s.cfg := rfl

@[simp] theorem State.raiseIll_lastSrc (s : State) : (s.raiseIll).lastSrc = s.lastSrc := rfl

@[simp] theorem State.raiseIll_now (s : State) : (s.raiseIll).now = s.now := rfl

@[simp] theorem State.raiseIll_tx (s : State) : (s.raiseIll).tx = s.tx := rfl

@[simp] theorem State.raiseIll_ill (s : State) : (s.raiseIll).ill = true := rfl

@[simp] theorem State.raiseIll_decMiss (s : State) : (s.raiseIll).decMiss = s.decMiss := rfl

@[simp] theorem State.raiseIll_encMiss (s : State) : (s.raiseIll).encMiss = s.encMiss := rfl

@[simp] theorem State.raiseIll_out (s : State) : (s.raiseIll).out = s.out := rfl

@[simp] theorem State.raiseIll_charPort (s : State) : (s.raiseIll).charPort = s.charPort := rfl

@[simp] theorem State.raiseIll_port (s : State) : (s.raiseIll).port = s.port := rfl

@[simp] theorem State.raiseIll_rst (s : State) : (s.raiseIll).rst = s.rst := rfl

@[simp] theorem State.raiseIll_env (s : State) : (s.raiseIll).env = s.env := rfl

@[simp] theorem State.raiseIll_ch0 (s : State) : (s.raiseIll).ch0 = s.ch0 := rfl

@[simp] theorem State.raiseIll_ch1 (s : State) : (s.raiseIll).ch1 = s.ch1 := rfl

/-! `advanceNow`. -/

@[simp] theorem State.advanceNow_ch (s : State) (j : Chan) : (s.advanceNow).ch j = s.ch j := by cases j <;> rfl

@[simp] theorem State.advanceNow_cfg (s : State) : (s.advanceNow).cfg = s.cfg := rfl

@[simp] theorem State.advanceNow_lastSrc (s : State) : (s.advanceNow).lastSrc = s.lastSrc := rfl

@[simp] theorem State.advanceNow_now (s : State) : (s.advanceNow).now = addT s.cfg.timeW s.now 1 := rfl

@[simp] theorem State.advanceNow_tx (s : State) : (s.advanceNow).tx = s.tx := rfl

@[simp] theorem State.advanceNow_ill (s : State) : (s.advanceNow).ill = s.ill := rfl

@[simp] theorem State.advanceNow_decMiss (s : State) : (s.advanceNow).decMiss = s.decMiss := rfl

@[simp] theorem State.advanceNow_encMiss (s : State) : (s.advanceNow).encMiss = s.encMiss := rfl

@[simp] theorem State.advanceNow_out (s : State) : (s.advanceNow).out = s.out := rfl

@[simp] theorem State.advanceNow_charPort (s : State) : (s.advanceNow).charPort = s.charPort := rfl

@[simp] theorem State.advanceNow_port (s : State) : (s.advanceNow).port = s.port := rfl

@[simp] theorem State.advanceNow_rst (s : State) : (s.advanceNow).rst = s.rst := rfl

@[simp] theorem State.advanceNow_env (s : State) : (s.advanceNow).env = s.env := rfl

@[simp] theorem State.advanceNow_ch0 (s : State) : (s.advanceNow).ch0 = s.ch0 := rfl

@[simp] theorem State.advanceNow_ch1 (s : State) : (s.advanceNow).ch1 = s.ch1 := rfl

/-! `setTx`. -/

@[simp] theorem State.setTx_ch (s : State) (t : Transmitter) (j : Chan) : (s.setTx t).ch j = s.ch j := by cases j <;> rfl

@[simp] theorem State.setTx_cfg (s : State) (t : Transmitter) : (s.setTx t).cfg = s.cfg := rfl

@[simp] theorem State.setTx_lastSrc (s : State) (t : Transmitter) : (s.setTx t).lastSrc = s.lastSrc := rfl

@[simp] theorem State.setTx_now (s : State) (t : Transmitter) : (s.setTx t).now = s.now := rfl

@[simp] theorem State.setTx_tx (s : State) (t : Transmitter) : (s.setTx t).tx = t := rfl

@[simp] theorem State.setTx_ill (s : State) (t : Transmitter) : (s.setTx t).ill = s.ill := rfl

@[simp] theorem State.setTx_decMiss (s : State) (t : Transmitter) : (s.setTx t).decMiss = s.decMiss := rfl

@[simp] theorem State.setTx_encMiss (s : State) (t : Transmitter) : (s.setTx t).encMiss = s.encMiss := rfl

@[simp] theorem State.setTx_out (s : State) (t : Transmitter) : (s.setTx t).out = s.out := rfl

@[simp] theorem State.setTx_charPort (s : State) (t : Transmitter) : (s.setTx t).charPort = s.charPort := rfl

@[simp] theorem State.setTx_port (s : State) (t : Transmitter) : (s.setTx t).port = s.port := rfl

@[simp] theorem State.setTx_rst (s : State) (t : Transmitter) : (s.setTx t).rst = s.rst := rfl

@[simp] theorem State.setTx_env (s : State) (t : Transmitter) : (s.setTx t).env = s.env := rfl

@[simp] theorem State.setTx_ch0 (s : State) (t : Transmitter) : (s.setTx t).ch0 = s.ch0 := rfl

@[simp] theorem State.setTx_ch1 (s : State) (t : Transmitter) : (s.setTx t).ch1 = s.ch1 := rfl

/-! `clearPort`. -/

@[simp] theorem State.clearPort_ch (s : State) (j : Chan) : (s.clearPort).ch j = s.ch j := by cases j <;> rfl

@[simp] theorem State.clearPort_cfg (s : State) : (s.clearPort).cfg = s.cfg := rfl

@[simp] theorem State.clearPort_lastSrc (s : State) : (s.clearPort).lastSrc = s.lastSrc := rfl

@[simp] theorem State.clearPort_now (s : State) : (s.clearPort).now = s.now := rfl

@[simp] theorem State.clearPort_tx (s : State) : (s.clearPort).tx = s.tx := rfl

@[simp] theorem State.clearPort_ill (s : State) : (s.clearPort).ill = s.ill := rfl

@[simp] theorem State.clearPort_decMiss (s : State) : (s.clearPort).decMiss = s.decMiss := rfl

@[simp] theorem State.clearPort_encMiss (s : State) : (s.clearPort).encMiss = s.encMiss := rfl

@[simp] theorem State.clearPort_out (s : State) : (s.clearPort).out = s.out := rfl

@[simp] theorem State.clearPort_charPort (s : State) : (s.clearPort).charPort = s.charPort := rfl

@[simp] theorem State.clearPort_port (s : State) : (s.clearPort).port = none := rfl

@[simp] theorem State.clearPort_rst (s : State) : (s.clearPort).rst = s.rst := rfl

@[simp] theorem State.clearPort_env (s : State) : (s.clearPort).env = s.env := rfl

@[simp] theorem State.clearPort_ch0 (s : State) : (s.clearPort).ch0 = s.ch0 := rfl

@[simp] theorem State.clearPort_ch1 (s : State) : (s.clearPort).ch1 = s.ch1 := rfl

/-! `beginStep`. -/

@[simp] theorem State.beginStep_ch (s : State) (rest : List EnvStep) (j : Chan) : (s.beginStep rest).ch j = s.ch j := by cases j <;> rfl

@[simp] theorem State.beginStep_cfg (s : State) (rest : List EnvStep) : (s.beginStep rest).cfg = s.cfg := rfl

@[simp] theorem State.beginStep_lastSrc (s : State) (rest : List EnvStep) : (s.beginStep rest).lastSrc = s.lastSrc := rfl

@[simp] theorem State.beginStep_now (s : State) (rest : List EnvStep) : (s.beginStep rest).now = s.now := rfl

@[simp] theorem State.beginStep_tx (s : State) (rest : List EnvStep) : (s.beginStep rest).tx = s.tx := rfl

@[simp] theorem State.beginStep_ill (s : State) (rest : List EnvStep) : (s.beginStep rest).ill = s.ill := rfl

@[simp] theorem State.beginStep_decMiss (s : State) (rest : List EnvStep) : (s.beginStep rest).decMiss = s.decMiss := rfl

@[simp] theorem State.beginStep_encMiss (s : State) (rest : List EnvStep) : (s.beginStep rest).encMiss = s.encMiss := rfl

@[simp] theorem State.beginStep_out (s : State) (rest : List EnvStep) : (s.beginStep rest).out = s.out := rfl

@[simp] theorem State.beginStep_charPort (s : State) (rest : List EnvStep) : (s.beginStep rest).charPort = [] := rfl

@[simp] theorem State.beginStep_port (s : State) (rest : List EnvStep) : (s.beginStep rest).port = s.port := rfl

@[simp] theorem State.beginStep_rst (s : State) (rest : List EnvStep) : (s.beginStep rest).rst = s.rst := rfl

@[simp] theorem State.beginStep_env (s : State) (rest : List EnvStep) : (s.beginStep rest).env = rest := rfl

@[simp] theorem State.beginStep_ch0 (s : State) (rest : List EnvStep) : (s.beginStep rest).ch0 = s.ch0 := rfl

@[simp] theorem State.beginStep_ch1 (s : State) (rest : List EnvStep) : (s.beginStep rest).ch1 = s.ch1 := rfl

/-! `hold`. -/

@[simp] theorem State.hold_ch (s : State) (j : Chan) : (s.hold).ch j = s.ch j := by cases j <;> rfl

@[simp] theorem State.hold_cfg (s : State) : (s.hold).cfg = s.cfg := rfl

@[simp] theorem State.hold_lastSrc (s : State) : (s.hold).lastSrc = s.lastSrc := rfl

@[simp] theorem State.hold_now (s : State) : (s.hold).now = s.now := rfl

@[simp] theorem State.hold_tx (s : State) : (s.hold).tx = s.tx := rfl

@[simp] theorem State.hold_ill (s : State) : (s.hold).ill = s.ill := rfl

@[simp] theorem State.hold_decMiss (s : State) : (s.hold).decMiss = s.decMiss := rfl

@[simp] theorem State.hold_encMiss (s : State) : (s.hold).encMiss = s.encMiss := rfl

@[simp] theorem State.hold_out (s : State) : (s.hold).out = s.out := rfl

@[simp] theorem State.hold_charPort (s : State) : (s.hold).charPort = s.charPort := rfl

@[simp] theorem State.hold_port (s : State) : (s.hold).port = s.port := rfl

@[simp] theorem State.hold_rst (s : State) : (s.hold).rst = s.rst := rfl

@[simp] theorem State.hold_env (s : State) : (s.hold).env = s.env := rfl

@[simp] theorem State.hold_ch0 (s : State) : (s.hold).ch0 = s.ch0 := rfl

@[simp] theorem State.hold_ch1 (s : State) : (s.hold).ch1 = s.ch1 := rfl

/-! The reset action. -/

@[simp] theorem State.applyReset_cfg (s : State) : s.applyReset.cfg = s.cfg := rfl

@[simp] theorem State.applyReset_lastSrc (s : State) : s.applyReset.lastSrc = .c0 := rfl

@[simp] theorem State.applyReset_now (s : State) : s.applyReset.now = 0 := rfl

@[simp] theorem State.applyReset_tx (s : State) : s.applyReset.tx = Transmitter.reset := rfl

@[simp] theorem State.applyReset_ill (s : State) : s.applyReset.ill = false := rfl

@[simp] theorem State.applyReset_decMiss (s : State) : s.applyReset.decMiss = 0 := rfl

@[simp] theorem State.applyReset_encMiss (s : State) : s.applyReset.encMiss = 0 := rfl

@[simp] theorem State.applyReset_out (s : State) : s.applyReset.out = s.out := rfl

@[simp] theorem State.applyReset_charPort (s : State) : s.applyReset.charPort = [] := rfl

@[simp] theorem State.applyReset_port (s : State) : s.applyReset.port = none := rfl

@[simp] theorem State.applyReset_rst (s : State) : s.applyReset.rst = s.rst := rfl

@[simp] theorem State.applyReset_env (s : State) : s.applyReset.env = s.env := rfl

@[simp] theorem State.applyReset_ch0 (s : State) : s.applyReset.ch0 = Channel.reset s.cfg := rfl

@[simp] theorem State.applyReset_ch1 (s : State) : s.applyReset.ch1 = Channel.reset s.cfg := rfl

end Sys2Proof.Machine
end

