-- ==== Sys2Proof/Laws/Ops.lean ====
section
/-!
SUPPORT. What the shared operations of Machine/Ops.lean do.
-/

namespace Sys2Proof.Machine

theorem busy_eq_false_iff (s : State) : s.busy = false ↔ s.tx.phase = .idle := by
  cases h : s.tx.phase <;> simp [State.busy, h]

theorem whenReady_of_idle {s : State} (h : s.busy = false) (k : State → State) : whenReady s k = .next (k s) := by
  simp [whenReady, h]

theorem whenReady_of_busy {s : State} (h : s.busy = true) (k : State → State) : whenReady s k = .next s := by
  simp [whenReady, h, State.hold]

/-- Every result of modular time is a value of the register's width (R12). -/
theorem addT_lt (w a b : Nat) : addT w a b < 2 ^ w := Nat.mod_lt _ (Nat.two_pow_pos w)

theorem subT_lt (w a b : Nat) : subT w a b < 2 ^ w := Nat.mod_lt _ (Nat.two_pow_pos w)

/-- No time has elapsed from an instant to itself. -/
theorem subT_self (w a : Nat) : subT w a a = 0 := by
  have hp := Nat.two_pow_pos w
  have hlt := Nat.mod_lt a hp
  have h : (a + (2 ^ w - a % 2 ^ w)) = 2 ^ w * (a / 2 ^ w + 1) := by
    have := Nat.div_add_mod a (2 ^ w)
    rw [Nat.mul_add, Nat.mul_one]; omega
  simp [subT, h]

theorem getLsbD_setBit {n : Nat} (b : BitVec n) (i j : Nat) (v : Bool) (h : i < n) :
    (setBit b i v).getLsbD j = if j = i then v else b.getLsbD j := by
  unfold setBit
  by_cases hj : j = i
  · subst hj; cases v <;> simp [h]
  · have hi : ¬ i = j := fun e => hj e.symm
    cases v
    · by_cases hn : j < n
      · simp [hj, hn]
      · simp [hj, BitVec.getLsbD_of_ge _ _ (Nat.le_of_not_lt hn)]
    · simp [hj, hi]

theorem full_iff (cfg : Config) (c : Channel) : full cfg c = true ↔ c.len.toNat = cfg.maxMorseLength := by
  simp [full]

theorem nonEmpty_iff (c : Channel) : nonEmpty c = true ↔ 0 < c.len.toNat := by simp [nonEmpty]

end Sys2Proof.Machine
end

