-- ==== Sys2Proof/Laws/PerInstr.lean ====
section
/-!
SUPPORT. Statements made of every instruction as syntax.
-/

namespace Sys2Proof.Laws.OpField

open Sys2Proof

/-- The field `OP` of each operation's word (R101), and that TICK, alone, has no word (R105). -/
def Statement (i : Instr) : Prop :=
  match i with
  | .nop => ∃ w, encode i = .command w ∧ opField w = 0b000#3
  | .rxs _ _ => ∃ w, encode i = .command w ∧ opField w = 0b001#3
  | .txc _ => ∃ w, encode i = .command w ∧ opField w = 0b010#3
  | .tick => encode i = .strobe

theorem nop : Statement .nop := ⟨_, rfl, by decide⟩

theorem rxs (k : Chan) (x : Sample) : Statement (.rxs k x) :=
  ⟨_, rfl, by
    have := x.isLt
    rw [← BitVec.toNat_inj, opField_toNat, rxsWord_toNat]
    cases k <;> simp <;> omega⟩

theorem txc (c : Byte) : Statement (.txc c) :=
  ⟨_, rfl, by
    have := c.isLt
    rw [← BitVec.toNat_inj, opField_toNat, txcWord_toNat]
    simp; omega⟩

theorem tick : Statement .tick := rfl

end Sys2Proof.Laws.OpField
end

