-- ==== Sys2Proof/Laws/Receive.lean ====
section
/-!
SUPPORT. What the stages of a poll do, each said once: the assembler's operations write only buffers, events and the
count of misses (`OnlyBuffers`), and the edge handlers what R180 and R181 name.
-/

namespace Sys2Proof.Machine

/-- `c` and `d` agree in every register but the buffer's. -/
structure SameEdges (c d : Channel) : Prop where
  win : d.win = c.win
  widx : d.widx = c.widx
  acc : d.acc = c.acc
  pend : d.pend = c.pend
  start : d.start = c.start
  tTrans : d.tTrans = c.tTrans
  tRise : d.tRise = c.tRise
  tFall : d.tFall = c.tFall

theorem SameEdges.refl (c : Channel) : SameEdges c c := ⟨rfl, rfl, rfl, rfl, rfl, rfl, rfl, rfl⟩

theorem SameEdges.trans {a b c : Channel} (h : SameEdges a b) (g : SameEdges b c) : SameEdges a c :=
  ⟨g.win.trans h.win, g.widx.trans h.widx, g.acc.trans h.acc, g.pend.trans h.pend, g.start.trans h.start,
   g.tTrans.trans h.tTrans, g.tRise.trans h.tRise, g.tFall.trans h.tFall⟩

/-- From `s` to `t` only buffers and `DEC_MISS` changed, and `new` was emitted. -/
structure OnlyBuffers (s t : State) (new : List OutEvent) : Prop where
  cfg : t.cfg = s.cfg
  lastSrc : t.lastSrc = s.lastSrc
  now : t.now = s.now
  tx : t.tx = s.tx
  ill : t.ill = s.ill
  encMiss : t.encMiss = s.encMiss
  port : t.port = s.port
  rst : t.rst = s.rst
  env : t.env = s.env
  out : t.out = s.out ++ new
  charPort : t.charPort = s.charPort ++ new
  edges : ∀ j, SameEdges (s.ch j) (t.ch j)

theorem OnlyBuffers.refl (s : State) : OnlyBuffers s s [] :=
  ⟨rfl, rfl, rfl, rfl, rfl, rfl, rfl, rfl, rfl, by simp, by simp, fun _ => SameEdges.refl _⟩

theorem OnlyBuffers.trans {s t u : State} {a b : List OutEvent} (h : OnlyBuffers s t a) (g : OnlyBuffers t u b) :
    OnlyBuffers s u (a ++ b) :=
  ⟨g.cfg.trans h.cfg, g.lastSrc.trans h.lastSrc, g.now.trans h.now, g.tx.trans h.tx, g.ill.trans h.ill,
   g.encMiss.trans h.encMiss, g.port.trans h.port, g.rst.trans h.rst, g.env.trans h.env,
   by rw [g.out, h.out, List.append_assoc], by rw [g.charPort, h.charPort, List.append_assoc],
   fun j => (h.edges j).trans (g.edges j)⟩

/-- What a buffer of channel `k` decodes to, as the event it emits (R203). -/
def flushEvents (s : State) (k : Chan) : List OutEvent :=
  match decodeCode s.cfg.codeTable (bufferCode (s.ch k)) with
  | some c => [⟨k, c⟩]
  | none => []

theorem flushEvents_length_le (s : State) (k : Chan) : (flushEvents s k).length ≤ 1 := by
  unfold flushEvents; split <;> simp

theorem flush_onlyBuffers (k : Chan) (s : State) : OnlyBuffers s (flush k s) (flushEvents s k) := by
  unfold flush resolve flushEvents
  cases decodeCode s.cfg.codeTable (bufferCode (s.ch k)) <;>
    exact ⟨by simp, by simp, by simp, by simp, by simp, by simp, by simp, by simp, by simp, by simp, by simp,
      fun j => by
        rcases chan_eq_or_other j k with rfl | rfl
        · exact ⟨by simp, by simp, by simp, by simp, by simp, by simp, by simp, by simp⟩
        · simpa using SameEdges.refl _⟩

/-- A flush empties its channel's buffer (R203). -/
@[simp] theorem flush_ch_self (k : Chan) (s : State) : (flush k s).ch k = { s.ch k with len := 0, buf := 0 } := by
  unfold flush resolve; cases decodeCode s.cfg.codeTable (bufferCode (s.ch k)) <;> simp

/-- A flush leaves the other channel alone (R200). -/
theorem flush_ch_ne {j k : Chan} (h : j ≠ k) (s : State) : (flush k s).ch j = s.ch j := by
  unfold flush resolve; cases decodeCode s.cfg.codeTable (bufferCode (s.ch k)) <;> simp [State.ch_setCh, h]

/-- A flush counts a miss or emits, never both (R203). -/
theorem flush_decMiss (k : Chan) (s : State) :
    (flush k s).decMiss = if (flushEvents s k).isEmpty then s.decMiss + 1 else s.decMiss := by
  unfold flush resolve flushEvents; cases decodeCode s.cfg.codeTable (bufferCode (s.ch k)) <;> simp

/-- A trigger pass over one channel flushes it or does nothing (R204). -/
theorem flushTriggers_cases (now : Nat) (s : State) (j : Chan) :
    (flushDue now j s = true ∧ flushTriggers now s j = flush j s) ∨
    (flushDue now j s = false ∧ flushTriggers now s j = s) := by
  unfold flushTriggers; cases flushDue now j s <;> simp

theorem flushAll_of_single {s : State} (h : s.cfg.dualSource = false) (now : Nat) :
    flushAll now s = flushTriggers now s .c0 := by
  simp [flushAll, Config.channels, h]

theorem flushAll_of_dual {s : State} (h : s.cfg.dualSource = true) (now : Nat) :
    flushAll now s = flushTriggers now (flushTriggers now s .c0) .c1 := by
  simp [flushAll, Config.channels, h]

theorem flushTriggers_onlyBuffers (now : Nat) (s : State) (j : Chan) :
    ∃ new, OnlyBuffers s (flushTriggers now s j) new ∧ new.length ≤ 1 := by
  rcases flushTriggers_cases now s j with ⟨_, h⟩ | ⟨_, h⟩ <;> rw [h]
  · exact ⟨_, flush_onlyBuffers j s, flushEvents_length_le s j⟩
  · exact ⟨[], OnlyBuffers.refl s, by simp⟩

theorem flushAll_onlyBuffers (now : Nat) (s : State) :
    ∃ new, OnlyBuffers s (flushAll now s) new ∧ new.length ≤ (if s.cfg.dualSource then 2 else 1) := by
  obtain ⟨a, ha, la⟩ := flushTriggers_onlyBuffers now s .c0
  cases hd : s.cfg.dualSource
  · rw [flushAll_of_single hd]; exact ⟨a, ha, by simpa using la⟩
  · obtain ⟨b, hb, lb⟩ := flushTriggers_onlyBuffers now (flushTriggers now s .c0) .c1
    rw [flushAll_of_dual hd]
    refine ⟨a ++ b, ha.trans hb, ?_⟩
    simp; omega

theorem flushDue_congr {s t : State} {j : Chan} (now : Nat) (hc : t.cfg = s.cfg) (hl : t.lastSrc = s.lastSrc)
    (hj : t.ch j = s.ch j) : flushDue now j t = flushDue now j s := by
  simp [flushDue, hc, hl, hj]

/-- What a channel is after its own trigger pass: emptied if it was due (R204). -/
def triggered (now : Nat) (s : State) (j : Chan) : Channel :=
  if flushDue now j s then { s.ch j with len := 0, buf := 0 } else s.ch j

theorem flushTriggers_ch_self (now : Nat) (s : State) (j : Chan) :
    (flushTriggers now s j).ch j = triggered now s j := by
  unfold triggered
  rcases flushTriggers_cases now s j with ⟨h, e⟩ | ⟨h, e⟩ <;> simp [h, e]

theorem flushTriggers_ch_ne (now : Nat) (s : State) {j k : Chan} (h : k ≠ j) :
    (flushTriggers now s j).ch k = s.ch k := by
  rcases flushTriggers_cases now s j with ⟨_, e⟩ | ⟨_, e⟩ <;> rw [e]
  exact flush_ch_ne h s

/-- After the triggers each channel of the instance is emptied if it was due, whatever the other one was, and a channel
the instance lacks is left alone (R200, R204). -/
theorem flushAll_ch (now : Nat) (s : State) (j : Chan) :
    (flushAll now s).ch j = if s.cfg.hasChannel j then triggered now s j else s.ch j := by
  cases hd : s.cfg.dualSource
  · rw [flushAll_of_single hd]
    cases j
    · simp [Config.hasChannel, flushTriggers_ch_self]
    · simp [Config.hasChannel, hd, flushTriggers_ch_ne now s (show Chan.c1 ≠ Chan.c0 by decide)]
  · rw [flushAll_of_dual hd]
    obtain ⟨a, ha, _⟩ := flushTriggers_onlyBuffers now s .c0
    cases j
    · rw [flushTriggers_ch_ne now _ (show Chan.c0 ≠ Chan.c1 by decide), flushTriggers_ch_self]
      simp [Config.hasChannel]
    · have hne := flushTriggers_ch_ne now s (show Chan.c1 ≠ Chan.c0 by decide)
      rw [flushTriggers_ch_self]
      simp [Config.hasChannel, hd, triggered, flushDue_congr now ha.cfg ha.lastSrc hne, hne]

theorem pushSymbol_onlyBuffers (k : Chan) (sym : Symbol) (s : State) :
    OnlyBuffers s (s.setCh k (pushSymbol sym (s.ch k))) [] :=
  ⟨by simp, by simp, by simp, by simp, by simp, by simp, by simp, by simp, by simp, by simp, by simp, fun j => by
    rcases chan_eq_or_other j k with rfl | rfl
    · rw [State.ch_setCh_self]; exact ⟨rfl, rfl, rfl, rfl, rfl, rfl, rfl, rfl⟩
    · rw [State.ch_setCh_other]; exact SameEdges.refl _⟩

theorem append_cases (k : Chan) (sym : Symbol) (s : State) :
    (full s.cfg (s.ch k) = true ∧ append k sym s = s) ∨
    (full s.cfg (s.ch k) = false ∧ full s.cfg (pushSymbol sym (s.ch k)) = true ∧
      append k sym s = flush k (s.setCh k (pushSymbol sym (s.ch k)))) ∨
    (full s.cfg (s.ch k) = false ∧ full s.cfg (pushSymbol sym (s.ch k)) = false ∧
      append k sym s = s.setCh k (pushSymbol sym (s.ch k))) := by
  unfold append flushIfFull
  cases full s.cfg (s.ch k) <;> cases h : full s.cfg (pushSymbol sym (s.ch k)) <;> simp [h]

/-- An append writes only its channel's buffer, or flushes it (R201, R202). -/
theorem append_onlyBuffers (k : Chan) (sym : Symbol) (s : State) :
    ∃ new, OnlyBuffers s (append k sym s) new ∧ new.length ≤ 1 := by
  rcases append_cases k sym s with ⟨_, e⟩ | ⟨_, _, e⟩ | ⟨_, _, e⟩ <;> rw [e]
  · exact ⟨[], OnlyBuffers.refl s, by simp⟩
  · exact ⟨_, (pushSymbol_onlyBuffers k sym s).trans (flush_onlyBuffers k _), by simpa using flushEvents_length_le _ k⟩
  · exact ⟨[], pushSymbol_onlyBuffers k sym s, by simp⟩

theorem append_ch_ne {j k : Chan} (h : j ≠ k) (sym : Symbol) (s : State) : (append k sym s).ch j = s.ch j := by
  rcases append_cases k sym s with ⟨_, e⟩ | ⟨_, _, e⟩ | ⟨_, _, e⟩ <;> rw [e]
  · rw [flush_ch_ne h, State.ch_setCh, if_neg h]
  · rw [State.ch_setCh, if_neg h]

/-- What an append leaves in its channel: unchanged at capacity, emptied on reaching it, one symbol more below it. -/
theorem append_ch_self (k : Chan) (sym : Symbol) (s : State) :
    (append k sym s).ch k =
      if full s.cfg (s.ch k) then s.ch k
      else if full s.cfg (pushSymbol sym (s.ch k)) then { s.ch k with len := 0, buf := 0 }
      else pushSymbol sym (s.ch k) := by
  rcases append_cases k sym s with ⟨h, e⟩ | ⟨h, g, e⟩ | ⟨h, g, e⟩ <;> rw [e, h]
  · simp
  · rw [g]; simp [pushSymbol]
  · rw [g]; simp

/-- The length after one more symbol, while it fits its three bits. -/
theorem pushSymbol_len {cfg : Config} {c : Channel} (hcap : cfg.maxMorseLength ≤ 7)
    (h : c.len.toNat < cfg.maxMorseLength) (sym : Symbol) : (pushSymbol sym c).len.toNat = c.len.toNat + 1 := by
  have h1 : (1 : BitVec 3).toNat = 1 := rfl
  simp only [pushSymbol, BitVec.toNat_add, h1]; omega

theorem transition_cases (cfg : Config) (now : Nat) (raw : Bool) (c : Channel) :
    (transition cfg now raw c = (c, .none) ∧ (raw = c.acc ∨ transitionOk cfg now raw c = false)) ∨
    (transition cfg now raw c = ({ c with acc := raw, tTrans := now }, if raw then .rise else .fall) ∧
      raw ≠ c.acc ∧ transitionOk cfg now raw c = true) := by
  unfold transition
  by_cases h : raw = c.acc
  · simp [h]
  · cases ho : transitionOk cfg now raw c <;> simp [h]

/-- A sample that fits a slot is what the slot takes (R151). -/
theorem slotSample_of_fits {cfg : Config} {x : Sample} (h : x.toNat < 2 ^ cfg.sampleW) : slotSample cfg x = x := by
  simp [slotSample, h]

/-- What a slot takes is a value of the slot's width (R12, R32). -/
theorem slotSample_lt (cfg : Config) (x : Sample) : (slotSample cfg x).toNat < 2 ^ cfg.sampleW := by
  unfold slotSample
  split
  · assumption
  · rw [BitVec.toNat_ofNat]
    exact Nat.lt_of_le_of_lt (Nat.mod_le _ _) (Nat.mod_lt _ (Nat.two_pow_pos _))

/-- Conditioning writes only the window and its index, and only of an analog instance (R151, R154). -/
theorem condition_frame (cfg : Config) (x : Sample) (c : Channel) :
    (condition cfg x c).1 =
      if cfg.inputKind = .analog then windowWrite cfg x c else c := by
  unfold condition; cases cfg.inputKind <;> simp

/-- RXS always completes: held, an illegal word's effect, or a poll (R150, R238, R264). -/
theorem execRxs_cases (k : Chan) (x : Sample) (s : State) :
    (s.busy = true ∧ execRxs k x s = .next s) ∨
    (s.busy = false ∧ (Instr.rxs k x).wf s.cfg = false ∧ execRxs k x s = .next s.raiseIll) ∨
    (s.busy = false ∧ (Instr.rxs k x).wf s.cfg = true ∧ execRxs k x s = .next (poll k x s)) := by
  unfold execRxs
  cases hb : s.busy
  · cases hw : (Instr.rxs k x).wf s.cfg <;> simp [whenReady_of_idle hb, hw]
  · simp [whenReady_of_busy hb]

end Sys2Proof.Machine
end

