-- ==== Sys2Proof/Laws/Poll.lean ====
section
/-!
SUPPORT. A poll in its two halves: the channel's own edge (`afterEdge`) and the flush triggers, and the frame of the
whole.
-/

namespace Sys2Proof.Machine

/-- Conditioning writes no edge register and no buffer (R151, R154). -/
theorem condition_edges (cfg : Config) (x : Sample) (c : Channel) :
    (condition cfg x c).1.acc = c.acc ∧ (condition cfg x c).1.pend = c.pend ∧
    (condition cfg x c).1.start = c.start ∧ (condition cfg x c).1.tTrans = c.tTrans ∧
    (condition cfg x c).1.tRise = c.tRise ∧ (condition cfg x c).1.tFall = c.tFall ∧
    (condition cfg x c).1.len = c.len ∧ (condition cfg x c).1.buf = c.buf := by
  rw [condition_frame]; split <;> simp [windowWrite]

/-- An edge that passes its tests (R156 to R158). -/
theorem acceptEdge_of_ok {cfg : Config} {now : Nat} {x : Sample} {c : Channel} (h : (condition cfg x c).2 ≠ c.acc)
    (hd : cfg.debounceTime ≤ subT cfg.timeW now c.tTrans)
    (hp : (condition cfg x c).2 = true → cfg.peakDetectionThreshold ≤ subT cfg.timeW now c.tRise) :
    acceptEdge cfg now x c =
      ({ (condition cfg x c).1 with acc := (condition cfg x c).2, tTrans := now },
        if (condition cfg x c).2 then .rise else .fall) := by
  obtain ⟨a, _, _, b, d, _⟩ := condition_edges cfg x c
  cases hr : (condition cfg x c).2 <;> rw [hr] at h hp <;>
    simp [acceptEdge, transition, hr, a, h, transitionOk, debounceOk, peakOk, b, d, hd]
  exact hp rfl

/-- No request, or one that fails a test, is no edge (R156, R159). -/
theorem acceptEdge_of_not {cfg : Config} {now : Nat} {x : Sample} {c : Channel}
    (h : (condition cfg x c).2 = c.acc ∨ subT cfg.timeW now c.tTrans < cfg.debounceTime ∨
      ((condition cfg x c).2 = true ∧ subT cfg.timeW now c.tRise < cfg.peakDetectionThreshold)) :
    acceptEdge cfg now x c = ((condition cfg x c).1, .none) := by
  obtain ⟨a, _, _, b, d, _⟩ := condition_edges cfg x c
  simp only [acceptEdge, transition, a]
  split
  · rfl
  · rename_i hne
    have ho : transitionOk cfg now (condition cfg x c).2 (condition cfg x c).1 = false := by
      simp only [transitionOk, debounceOk, peakOk, b, d]
      rcases h with h | h | ⟨h, g⟩
      · exact absurd h hne
      · simp [Nat.not_le.2 h]
      · simp [Nat.not_le.2 g, h]
    simp [ho]

/-- The edge handlers write the channel, `LAST_SRC`, `OUT` and `DEC_MISS`, and emit at most one event (R180, R181). -/
theorem handleEdge_frame (k : Chan) (now : Nat) (e : Edge) (s : State) :
    (handleEdge k now e s).cfg = s.cfg ∧ (handleEdge k now e s).now = s.now ∧ (handleEdge k now e s).tx = s.tx ∧
    (handleEdge k now e s).ill = s.ill ∧ (handleEdge k now e s).encMiss = s.encMiss ∧
    (handleEdge k now e s).port = s.port ∧ (handleEdge k now e s).rst = s.rst ∧
    (handleEdge k now e s).env = s.env ∧ (handleEdge k now e s).ch k.other = s.ch k.other ∧
    ∃ new, (handleEdge k now e s).out = s.out ++ new ∧ (handleEdge k now e s).charPort = s.charPort ++ new ∧
      new.length ≤ 1 := by
  cases e
  · simp [handleEdge]
  · simp [handleEdge, pulseStart]
  · simp only [handleEdge, pulseEnd]
    obtain ⟨m, hm, hl⟩ := append_onlyBuffers k (classifyDuration s.cfg (subT s.cfg.timeW now (s.ch k).start))
      (s.setCh k { s.ch k with pend := false, tFall := now })
    refine ⟨by rw [hm.cfg]; simp, by rw [hm.now]; simp, by rw [hm.tx]; simp, by rw [hm.ill]; simp,
      by rw [hm.encMiss]; simp, by rw [hm.port]; simp, by rw [hm.rst]; simp, by rw [hm.env]; simp, ?_, m,
      by rw [hm.out]; simp, by rw [hm.charPort]; simp, hl⟩
    rw [append_ch_ne (chan_other_ne k)]; simp

theorem poll_eq (k : Chan) (x : Sample) (s : State) : poll k x s = flushAll s.now (afterEdge k x s) := rfl

/-- The edge of a poll leaves the other channel alone (R150). -/
theorem afterEdge_ch_other (k : Chan) (x : Sample) (s : State) : (afterEdge k x s).ch k.other = s.ch k.other := by
  unfold afterEdge; rw [(handleEdge_frame k s.now _ _).2.2.2.2.2.2.2.2.1]; simp

/-- A poll's frame; its triggers may still empty buffers (R150). -/
structure PollFrame (k : Chan) (x : Sample) (s t : State) : Prop where
  cfg : t.cfg = s.cfg
  now : t.now = s.now
  tx : t.tx = s.tx
  ill : t.ill = s.ill
  encMiss : t.encMiss = s.encMiss
  port : t.port = s.port
  rst : t.rst = s.rst
  env : t.env = s.env
  lastSrc : t.lastSrc = (afterEdge k x s).lastSrc
  edges : ∀ j, SameEdges ((afterEdge k x s).ch j) (t.ch j)
  events : ∃ new, t.out = s.out ++ new ∧ t.charPort = s.charPort ++ new

theorem poll_frame (k : Chan) (x : Sample) (s : State) : PollFrame k x s (poll k x s) := by
  obtain ⟨h1, h2, h3, h4, h5, h6, h7, h8, _, m, hm1, hm2, _⟩ := handleEdge_frame k s.now
    (acceptEdge s.cfg s.now x (s.ch k)).2 (s.setCh k (acceptEdge s.cfg s.now x (s.ch k)).1)
  obtain ⟨n, hn, _⟩ := flushAll_onlyBuffers s.now (afterEdge k x s)
  rw [poll_eq]
  refine ⟨?_, ?_, ?_, ?_, ?_, ?_, ?_, ?_, hn.lastSrc, hn.edges, m ++ n, ?_, ?_⟩
  · rw [hn.cfg]; exact h1.trans (by simp)
  · rw [hn.now]; exact h2.trans (by simp)
  · rw [hn.tx]; exact h3.trans (by simp)
  · rw [hn.ill]; exact h4.trans (by simp)
  · rw [hn.encMiss]; exact h5.trans (by simp)
  · rw [hn.port]; exact h6.trans (by simp)
  · rw [hn.rst]; exact h7.trans (by simp)
  · rw [hn.env]; exact h8.trans (by simp)
  · rw [hn.out]; unfold afterEdge; rw [hm1]; simp
  · rw [hn.charPort]; unfold afterEdge; rw [hm2]; simp

/-- The triggers empty a channel's buffer or leave the channel as the edge left it (R204). -/
theorem poll_ch_cases (k : Chan) (x : Sample) (s : State) (j : Chan) :
    (poll k x s).ch j = (afterEdge k x s).ch j ∨
    (poll k x s).ch j = { (afterEdge k x s).ch j with len := 0, buf := 0 } := by
  rw [poll_eq, flushAll_ch]
  unfold triggered
  split
  · split
    · exact .inr rfl
    · exact .inl rfl
  · exact .inl rfl

end Sys2Proof.Machine
end

