-- ==== Sys2Proof/Laws/Schedule.lean ====
section
/-!
SUPPORT. What a macro's host does for one word, for one command and for one TICK, and how runs and segments join.
-/

namespace Sys2Proof.Machine

@[simp] theorem offerWords_nil (s : State) : offerWords [] s = ([], s, []) := rfl

/-- A busy block leaves every word waiting (R238). -/
theorem offerWords_of_busy {s : State} (w : Word) (rest : List Word) (h : s.busy = true) :
    offerWords (w :: rest) s = ([.present w, .host], s, w :: rest) := by
  simp [offerWords, h]

/-- An idle block takes the oldest word, and the host goes on with the others (R263). -/
theorem offerWords_of_next {s t : State} {w : Word} (rest : List Word) (h : s.busy = false)
    (hw : performWord w s = .next t) :
    offerWords (w :: rest) s = (.present w :: .host :: (offerWords rest t).1, (offerWords rest t).2) := by
  simp [offerWords, h, hw]

@[simp] theorem scheduleFrom_nil (waiting : List Word) (s : State) : scheduleFrom [] waiting s = [] := rfl

theorem scheduleFrom_tick (is : List Instr) (waiting : List Word) (s : State) :
    scheduleFrom (.tick :: is) waiting s
      = .clock :: (offerWords waiting (tick s)).1
          ++ scheduleFrom is (offerWords waiting (tick s)).2.2 (offerWords waiting (tick s)).2.1 := rfl

theorem scheduleFrom_command {i : Instr} {w : Word} (is : List Instr) (waiting : List Word) (s : State)
    (h : encode i = .command w) :
    scheduleFrom (i :: is) waiting s
      = (offerWords (waiting ++ [w]) s).1
          ++ scheduleFrom is (offerWords (waiting ++ [w]) s).2.2 (offerWords (waiting ++ [w]) s).2.1 := by
  simp [scheduleFrom, h]

/-- A run goes on from where its first steps left it. -/
theorem runSteps_add {m n : Nat} {s t : State} (h : runSteps m s = .next t) : runSteps (m + n) s = runSteps n t := by
  induction m generalizing s with
  | zero => cases h; simp
  | succ m ih =>
    rw [Nat.add_right_comm]
    simp only [runSteps] at h ⊢
    cases he : step s <;> rw [he] at h <;> simp at h ⊢
    exact ih h

theorem totalLength_append (a b : List (Bool × Nat)) : totalLength (a ++ b) = totalLength a + totalLength b := by
  simp [totalLength]

/-- The level in segments laid end to end: in the first part, or as far into the second (R239). -/
theorem levelAt_append (a b : List (Bool × Nat)) (n : Nat) :
    levelAt (a ++ b) n = if n < totalLength a then levelAt a n else levelAt b (n - totalLength a) := by
  induction a generalizing n with
  | nil => simp [totalLength]
  | cons x a ih =>
    have hT : totalLength (x :: a) = x.2 + totalLength a := by simp [totalLength]
    simp only [List.cons_append, levelAt, ih, hT]
    by_cases h1 : n < x.2
    · rw [if_pos h1, if_pos (by omega), if_pos h1]
    · rw [if_neg h1, if_neg h1]
      by_cases h2 : n - x.2 < totalLength a
      · rw [if_pos h2, if_pos (by omega)]
      · rw [if_neg h2, if_neg (by omega), Nat.sub_sub]

end Sys2Proof.Machine
end

