-- ==== Sys2Proof/Laws/Step.lean ====
section
/-!
SUPPORT. What `exec` never writes, and everything a step can do.
-/

namespace Sys2Proof.Machine

/-- What no instruction writes (R50, R263), and how it may touch `ILL`, `NOW` and `OUT` (R42, R47, R52). -/
structure ExecFrame (i : Instr) (s t : State) : Prop where
  cfg : t.cfg = s.cfg
  port : t.port = s.port
  rst : t.rst = s.rst
  env : t.env = s.env
  now : i ≠ .tick → t.now = s.now
  ill : s.ill = true → t.ill = true
  events : ∃ new, t.out = s.out ++ new ∧ t.charPort = s.charPort ++ new

theorem ExecFrame.refl (i : Instr) (s : State) : ExecFrame i s s :=
  ⟨rfl, rfl, rfl, rfl, fun _ => rfl, fun h => h, [], by simp, by simp⟩

theorem exec_frame {i : Instr} {s t : State} (h : exec i s = .next t) : ExecFrame i s t := by
  cases i with
  | nop => simp only [exec, execNop, whenReady] at h; split at h <;> cases h <;> exact ExecFrame.refl _ _
  | rxs k x =>
    rcases execRxs_cases k x s with ⟨_, g⟩ | ⟨_, _, g⟩ | ⟨_, _, g⟩ <;> (simp only [exec] at h; rw [g] at h; cases h)
    · exact ExecFrame.refl _ _
    · exact ⟨rfl, rfl, rfl, rfl, fun _ => rfl, fun _ => rfl, [], by simp, by simp⟩
    · have f := poll_frame k x s
      exact ⟨f.cfg, f.port, f.rst, f.env, fun _ => f.now, fun h => f.ill.trans h, f.events⟩
  | txc c =>
    simp only [exec, execTxc, whenReady] at h
    split at h
    · cases h; exact ExecFrame.refl _ _
    · cases h
      split <;> exact ⟨rfl, rfl, rfl, rfl, fun _ => rfl, fun h => h, [], by simp, by simp⟩
  | tick => cases h; exact ⟨rfl, rfl, rfl, rfl, fun h => absurd rfl h, fun h => h, [], by simp [tick], by simp [tick]⟩

/-- A TICK is no word (R105). -/
theorem decodeCmd_ne_tick (cfg : Config) (w : Word) : decodeCmd cfg w ≠ .ok .tick := by
  unfold decodeCmd decodeRxs
  repeat' split
  all_goals simp

/-- Every way a step answers a next state. -/
theorem step_cases {s t : State} (h : step s = .next t) :
    s.cfg.valid = true ∧
    ((s.env = [] ∧ t = s) ∨
     ∃ e rest, s.env = e :: rest ∧
      (t = s.beginStep rest ∨
       (∃ w, e = .present w ∧ t = { s.beginStep rest with port := some w }) ∨
       (∃ w i, e = .host ∧ s.rst = false ∧ s.port = some w ∧ decodeCmd s.cfg w = .ok i ∧
         exec i (s.beginStep rest).clearPort = .next t) ∨
       (e = .host ∧ t = (s.beginStep rest).clearPort.raiseIll) ∨
       (e = .clock ∧ s.rst = false ∧ exec .tick (s.beginStep rest) = .next t) ∨
       (∃ level, e = .reset level ∧ t = { (s.beginStep rest).applyReset with rst := level }))) := by
  simp only [step, blockStep] at h
  split at h
  case isFalse => cases h
  rename_i hv
  refine ⟨hv, ?_⟩
  split at h
  · rename_i he; cases h; exact .inl ⟨he, rfl⟩
  rename_i e rest he
  refine .inr ⟨e, rest, he, ?_⟩
  cases e with
  | present w =>
    simp only [envStep, presentWord] at h
    split at h
    · cases h; exact .inl rfl
    split at h
    · cases h; exact .inr (.inl ⟨w, rfl, rfl⟩)
    · split at h <;> cases h; exact .inl rfl
  | host =>
    simp only [envStep, hostStep] at h
    split at h
    · cases h; exact .inl rfl
    rename_i hr
    split at h
    · cases h; exact .inl rfl
    rename_i w hp
    split at h
    · cases h; exact .inl rfl
    simp only [performWord] at h
    split at h
    · rename_i i hd
      exact .inr (.inr (.inl ⟨w, i, rfl, by simpa [State.beginStep] using hr, hp, hd, h⟩))
    · cases h; exact .inr (.inr (.inr (.inl ⟨rfl, rfl⟩)))
  | clock =>
    simp only [envStep, clockStep] at h
    split at h
    · cases h; exact .inl rfl
    · rename_i hr
      exact .inr (.inr (.inr (.inr (.inl ⟨rfl, by simpa [State.beginStep] using hr, h⟩))))
  | reset level =>
    simp only [envStep, resetStep] at h
    split at h
    · cases h; exact .inr (.inr (.inr (.inr (.inr ⟨level, rfl, rfl⟩))))
    · cases h; exact .inl rfl

end Sys2Proof.Machine
end

