-- ==== Sys2Proof/Tests/Slice0.lean ====
section
/-!
SUPPORT. Tests of the model, with results taken from the spec, and for each statement that has hypotheses a concrete
case that meets them.
-/

namespace Sys2Proof.Tests

open Sys2Proof Sys2Proof.Machine

/-! ## Ill-formed terms are refused -/

theorem test_wf_no_second_source : (Instr.rxs .c1 0).wf Config.ref = false ∧ (Instr.rxs .c1 0).wf Config.lbd = true := by
  decide

theorem test_wf_level_is_one_bit :
    (Instr.rxs .c0 2).wf Config.lb = false ∧ (Instr.rxs .c0 0x800).wf Config.lb = false ∧
    (Instr.rxs .c0 1).wf Config.lb = true ∧ (Instr.rxs .c0 0xFFF).wf Config.ref = true := by decide

theorem test_valid_named_configurations :
    Config.ref.valid = true ∧ Config.lb.valid = true ∧ Config.lb500.valid = true ∧ Config.lbd.valid = true := by decide

theorem test_valid_refuses_filter_size :
    { Config.ref with filterSize := 0 }.valid = false ∧ { Config.ref with filterSize := 16 }.valid = false ∧
    { Config.ref with filterSize := 15 }.valid = true := by decide

theorem test_valid_refuses_threshold_and_segments :
    { Config.ref with soundThreshold := 4096 }.valid = false ∧ { Config.ref with dotLength := 0 }.valid = false ∧
    { Config.ref with dashLength := 0 }.valid = false := by decide

theorem test_valid_refuses_times :
    { Config.ref with debounceTime := 2 ^ 32 }.valid = false ∧
    { Config.ref with peakDetectionThreshold := 2 ^ 32 }.valid = false ∧
    { Config.ref with dashThreshold := 2 ^ 32 }.valid = false ∧ { Config.ref with charGapMs := 2 ^ 32 }.valid = false ∧
    { Config.ref with dotLength := 2 ^ 32 }.valid = false ∧ { Config.ref with dashLength := 2 ^ 32 }.valid = false := by
  decide

theorem test_valid_refuses_capacity :
    { Config.ref with maxMorseLength := 0 }.valid = false ∧ { Config.ref with maxMorseLength := 8 }.valid = false := by
  decide

/-- R131: 36 entries in order, lengths 1 to 5, unused bits 0, unique codes. -/
theorem test_valid_refuses_tables :
    codeTableOk (ituTable.drop 1) = false ∧ codeTableOk (ituTable.set 0 ⟨0x41, 0, 0⟩) = false ∧
    codeTableOk (ituTable.set 0 ⟨0x41, 6, 0⟩) = false ∧ codeTableOk (ituTable.set 0 ⟨0x41, 2, 0x06⟩) = false ∧
    codeTableOk (ituTable.set 0 ⟨0x41, 1, 0x00⟩) = false := by decide

/-! ## Decoding: words written out from R101 -/

theorem test_decode_nop : decodeCmd Config.ref 0b000_0_0000_00000000 = .ok .nop := by rfl

/-- R114: RXS 0, 4095 and RXS 1, 0. -/
theorem test_decode_rxs :
    decodeCmd Config.ref 0b001_0_1111_11111111 = .ok (.rxs .c0 4095) ∧
    decodeCmd Config.lbd 0b001_1_0000_00000000 = .ok (.rxs .c1 0) ∧
    decodeCmd Config.lbd 0b001_1_0000_00000001 = .ok (.rxs .c1 1) := ⟨rfl, rfl, rfl⟩

/-- R114: TXC 'S'; 0xFF is a legal TXC (R110). -/
theorem test_decode_txc :
    decodeCmd Config.ref 0b010_0_0000_01010011 = .ok (.txc 0x53) ∧
    decodeCmd Config.ref 0b010_0_0000_11111111 = .ok (.txc 0xFF) := ⟨rfl, rfl⟩

theorem test_decode_tick : decode Config.ref .strobe = .ok .tick := by rfl

/-- The illegal words of 95_test_vectors.md 2.1, each by the name of what is wrong with it. -/
theorem test_decode_illegal :
    decodeCmd Config.ref 0x0001 = .error .nopTail ∧ decodeCmd Config.ref 0x1FFF = .error .nopTail ∧
    decodeCmd Config.ref 0x3000 = .error .noSuchSource ∧ decodeCmd Config.lb 0x2002 = .error .notALevel ∧
    decodeCmd Config.lbd 0x2FFF = .error .notALevel ∧ decodeCmd Config.ref 0x4100 = .error .txcTail ∧
    decodeCmd Config.ref 0x5FFF = .error .txcTail ∧ decodeCmd Config.ref 0x6000 = .error .reservedOp ∧
    decodeCmd Config.ref 0xFFFF = .error .reservedOp := ⟨rfl, rfl, rfl, rfl, rfl, rfl, rfl, rfl, rfl⟩

theorem test_decode_table_rows :
    decodeTableWord 16 0x0000 = some .nop ∧ decodeTableWord 16 0x2000 = some (.rxs .c0 0) ∧
    decodeTableWord 16 0x4000 = some (.txc 0x00) ∧ decodeTableWord 8 1 = some .tick ∧
    decodeTableWord 16 0x6000 = none := by decide

/-! ## One step -/

/-- An idle instance at a given time, nothing received yet. -/
def idleAt (c : Config) (now : Nat) : State := { State.resetOf c with now := now }

/-- A channel with an edge accepted at 1000 and its pulse pending. -/
def pressed (c : Config) : Channel :=
  { Channel.reset c with acc := true, pend := true, start := 1000, tTrans := 1000, tRise := 1000 }

/-- A channel at rest since 1060, after a pulse from 1000 that left one DOT in its buffer. -/
def oneDot (c : Config) : Channel :=
  { Channel.reset c with start := 1000, tTrans := 1060, tRise := 1000, tFall := 1060, len := 1 }

/-- An idle instance with a given channel 0. -/
def receiving (c : Config) (now : Nat) (ch0 : Channel) : State := { idleAt c now with ch0 := ch0 }

/-- The transmitter in a phase of 'S', with a given time left. -/
def inS (phase : TxPhase) (idx : BitVec 3) (cnt : Nat) : Transmitter :=
  { phase := phase, len := 3, bits := 0, idx := idx, cnt := cnt, out := phase == .mark }

/-- A REF instance sending 'S'. -/
def sending (phase : TxPhase) (idx : BitVec 3) (cnt : Nat) : State :=
  { idleAt Config.ref 1059 with tx := inS phase idx cnt }

/-- A state whose environment does one act, with a word waiting or not. -/
def acting (s : State) (port : Option Word) (e : EnvStep) : State := { s with port := port, env := [e] }

/-- 95_test_vectors.md 2.7, R262. -/
theorem test_step_nop :
    step (State.reset.withFetchWord 16 0x0000) = .next State.reset ∧
    exec .nop (sending .mark 0 30) = .next (sending .mark 0 30) := ⟨rfl, rfl⟩

/-- 95_test_vectors.md 2.3: the first analog RXS after reset. -/
theorem test_step_rxs_analog :
    step (State.reset.withFetchWord 16 0x2FFF) = .next { State.reset with
      ch0 := { Channel.reset Config.ref with win := [4095, 0, 0, 0, 0, 0, 0, 0, 0, 0], widx := 1 } } := by rfl

/-- 95_test_vectors.md 2.5: "`T_FALL` = 1060, `LEN` = 1, `ACC` = 0 ... (b) ... true at 1360: emit (0, 'E')". -/
theorem test_step_rxs_gap_flush :
    exec (.rxs .c0 0) (receiving Config.lb500 1360 (oneDot Config.lb500)) = .next
      { receiving Config.lb500 1360 { oneDot Config.lb500 with len := 0 } with
        out := [⟨.c0, 0x45⟩], charPort := [⟨.c0, 0x45⟩] } := by rfl

/-- R232, example. -/
theorem test_step_txc :
    step ((idleAt Config.ref 1000).withFetchWord 16 0x4053) = .next
      { idleAt Config.ref 1000 with tx := inS .mark 0 60 } := by rfl

/-- 95_test_vectors.md 2.6: '!' only counts a miss. -/
theorem test_step_txc_unmapped :
    exec (.txc 0x21) State.reset = .next { State.reset with encMiss := 1 } := by rfl

/-- R260, example. -/
theorem test_step_tick :
    step ((sending .mark 0 1).withFetchWord 8 1) = .next
      { sending .mark 0 1 with now := 1060, tx := inS .symgap 0 60 } := by rfl

/-- 95_test_vectors.md 2.7: `NOW` wraps. -/
theorem test_step_tick_wraps : exec .tick (idleAt Config.ref 0xFFFFFFFF) = .next (idleAt Config.ref 0) := by rfl

/-- 95_test_vectors.md 2.7, P8: an illegal word leaves `STATUS` = 0x2000. -/
theorem test_step_illegal :
    step (State.reset.withFetchWord 16 0x6000) = .next { State.reset with ill := true } ∧
    { State.reset with ill := true }.status = 0x2000 := ⟨rfl, by decide⟩

/-- The `STATUS` column of 95_test_vectors.md 2.6. -/
theorem test_status_of_a_transmission :
    (sending .mark 0 60).status = 0x0007 ∧ (sending .symgap 0 60).status = 0x0009 ∧
    (sending .lgap 2 300).status = 0x000D := by decide

/-- R111, R112: the notation, with the encodings of R114. -/
theorem test_assemble :
    assembleLine "RXS 0, 4095 ; full scale".toList = some (some (.instr (.rxs .c0 4095))) ∧
    assembleLine "TXC 'e'".toList = some (some (.instr (.txc 0x65))) ∧
    assembleLine "RXS 0x0FF".toList = some (some (.instr (.rxs .c0 255))) ∧
    assembleLine "LEVEL2 1, 0, 60".toList = some (some (.level2 1 0 60)) ∧
    assembleLine "RXS 2, 0".toList = none ∧ assembleLine "; nothing".toList = some none := by decide

/-- R112: LEVEL polls and ticks in turn. -/
theorem test_schedule_level :
    programSchedule [.level .c0 1 2] (State.resetOf Config.lb)
      = [.present 0x2001, .host, .clock, .present 0x2001, .host, .clock] := by rfl

/-- R112, R238, R241: the second character waits, held, while the first one plays, and is offered again after a TICK. -/
theorem test_schedule_send :
    programSchedule [.send [0x53, 0x4F], .ticks 1] State.reset
      = [.present 0x4053, .host, .present 0x404F, .host, .clock, .present 0x404F, .host] := by rfl

/-! ## A decidable form of the invariants, for the cases below -/

/-- `ChannelInv` as a computation. -/
def checkChannel (cfg : Config) (c : Channel) : Bool :=
  decide (c.win.length = cfg.filterSize ∧ c.widx.toNat < cfg.filterSize ∧ c.pend = c.acc)
    && decide ((c.pend = true → c.start = c.tRise ∧ c.start = c.tTrans) ∧ (c.acc = false → c.tTrans = c.tFall))
    && decide (c.len.toNat < cfg.maxMorseLength ∧ c.buf.toNat < 2 ^ c.len.toNat)
    && decide (c.start < 2 ^ cfg.timeW ∧ c.tTrans < 2 ^ cfg.timeW ∧ c.tRise < 2 ^ cfg.timeW ∧ c.tFall < 2 ^ cfg.timeW)
    && c.win.all (fun v => decide (v.toNat < 2 ^ cfg.sampleW))

theorem channelInv_of_check {cfg : Config} {c : Channel} (h : checkChannel cfg c = true) : ChannelInv cfg c := by
  simp only [checkChannel, Bool.and_eq_true, decide_eq_true_eq, List.all_eq_true] at h
  obtain ⟨⟨⟨⟨⟨h1, h2, h3⟩, h4, h5⟩, h6, h7⟩, h8⟩, h9⟩ := h
  refine ⟨h1, h2, h3, h4, h5, h6, fun i hi => ?_, h8, h9⟩
  exact Nat.testBit_lt_two_pow (Nat.lt_of_lt_of_le h7 (Nat.pow_le_pow_right (by omega) hi))

/-- `StateInv` as a computation, for a state whose transmitter and channel 1 are at rest. -/
def checkState (s : State) : Bool :=
  s.cfg.valid && checkChannel s.cfg s.ch0 && checkChannel s.cfg s.ch1
    && decide (s.tx = Transmitter.reset ∧ s.now < 2 ^ s.cfg.timeW ∧ s.rst = false
      ∧ (s.cfg.dualSource = false → s.ch1 = Channel.reset s.cfg ∧ s.lastSrc = .c0))

theorem stateInv_of_check {s : State} (h : checkState s = true) : StateInv s := by
  simp only [checkState, Bool.and_eq_true, decide_eq_true_eq] at h
  obtain ⟨⟨⟨h1, h2⟩, h3⟩, h4, h5, h6, h7⟩ := h
  refine ⟨h1, channelInv_of_check h2, channelInv_of_check h3, ?_, h5, h7, by simp [h6]⟩
  rw [h4]
  exact ⟨by decide, by decide, by decide, Nat.two_pow_pos _⟩

/-! ## The hypotheses of the statements can be met: encoding and the environment -/

theorem test_meets_DecodingAnEncodingGivesTheInstruction :
    (Instr.rxs .c0 4095).wf Config.ref = true ∧ (Instr.rxs .c1 1).wf Config.lbd = true ∧
    (Instr.txc 0xFF).wf Config.ref = true ∧ Instr.nop.wf Config.ref = true ∧ Instr.tick.wf Config.ref = true := by decide

theorem test_meets_ADecodedWordIsTheEncoding :
    decodeCmd Config.ref 0x2FFF = .ok (.rxs .c0 4095) ∧ decodeCmd Config.lbd 0x3001 = .ok (.rxs .c1 1) := ⟨rfl, rfl⟩

theorem test_meets_TheIllegalWordsAreTheListedOnes :
    (State.resetOf Config.lb).cfg.inputKind = .digital ∧ decodeCmd (State.resetOf Config.lb).cfg 0x2002 = .error .notALevel ∧
    decodeCmd Config.ref 0x3FFF = .error .noSuchSource ∧ decodeCmd Config.lbd 0x3000 = .ok (.rxs .c1 0) ∧
    decodeCmd Config.ref 0x40FF = .ok (.txc 0xFF) := ⟨rfl, rfl, rfl, rfl, rfl⟩

theorem test_meets_AnIllegalWordIsConsumedAndOnlySetsIll :
    (Running (acting State.reset (some 0x6000) .host) .host [] ∧ (acting State.reset (some 0x6000) .host).busy = false ∧
      (acting State.reset (some 0x6000) .host).port = some 0x6000 ∧ decodeCmd Config.ref 0x6000 = .error .reservedOp) ∧
    State.reset.busy = false ∧ (Instr.rxs .c1 0).wf State.reset.cfg = false :=
  ⟨⟨by unfold Running; decide, by decide, rfl, rfl⟩, by decide, by decide⟩

theorem test_meets_AHostStepRunsTheDecodedInstruction :
    let s := acting State.reset (some 0x4053) .host
    Running s .host [] ∧ s.port = some 0x4053 ∧ s.busy = false ∧ decodeCmd s.cfg 0x4053 = .ok (.txc 0x53) :=
  ⟨by unfold Running; decide, rfl, by decide, rfl⟩

theorem test_meets_AClockStepRunsTick : Running (acting (sending .mark 0 1) (some 0x4053) .clock) .clock [] := by
  unfold Running; decide

theorem test_meets_AWordIsHeldWhileTheTransmitterIsBusy :
    let s := acting (sending .mark 0 30) (some 0x6000) .host
    Running s .host [] ∧ s.busy = true ∧ Instr.nop ≠ .tick := by
  unfold Running; decide

theorem test_meets_AWordIsTakenExactlyWhenValidAndReady :
    (Running (acting State.reset (some 0x4053) .host) .host [] ∧
      ∃ t, step (acting State.reset (some 0x4053) .host) = .next t) ∧
    (Running (acting (sending .mark 0 30) (some 0x4053) .host) .host [] ∧
      ∃ t, step (acting (sending .mark 0 30) (some 0x4053) .host) = .next t) :=
  ⟨⟨by unfold Running; decide, _, rfl⟩, by unfold Running; decide, _, rfl⟩

theorem test_meets_APresentedWordWaitsAtThePort :
    let s := acting State.reset none (.present 0x4053)
    Running s (.present 0x4053) [] ∧ s.port = none := by
  unfold Running; decide

theorem test_meets_ChangingAWaitingWordIsRefused :
    let s := acting State.reset (some 0x4053) (.present 0x404F)
    let t := acting State.reset (some 0x4053) (.present 0x4053)
    (Running s (.present 0x404F) [] ∧ s.port = some 0x4053 ∧ (0x4053 : Word) ≠ 0x404F) ∧
    Running t (.present 0x4053) [] ∧ t.port = some 0x4053 := by
  unfold Running; decide

theorem test_meets_AConfigurationOutsideItsBoundsIsRefused :
    (State.resetOf { Config.ref with dotLength := 0 }).cfg.valid = false := by decide

theorem test_meets_TheBlockNeverStops :
    let s := acting (sending .mark 0 30) (some 0x4053) (.present 0x4053)
    s.cfg.valid = true ∧ breaksHold s = false := by decide

theorem test_meets_ResetPutsEveryRegisterAtItsResetValue :
    let s := acting (sending .mark 0 30) (some 0x4053) (.reset true)
    let t := { acting State.reset none (.reset false) with rst := true }
    (s.cfg.valid = true ∧ s.env = [.reset true]) ∧ t.cfg.valid = true ∧ t.env = [.reset false] ∧ t.rst = true := by decide

theorem test_meets_NothingIsPerformedWhileResetIsAsserted :
    let s := { acting State.reset none .host with rst := true }
    s.cfg.valid = true ∧ s.rst = true ∧ s.env = [.host] ∧ ∀ level, EnvStep.host ≠ .reset level := by decide

/-! ## NOP, TICK and TXC -/

theorem test_meets_NopChangesNothing : State.reset.tx.phase = .idle ∧ (sending .mark 0 30).tx.phase ≠ .idle := by decide

theorem test_meets_TickCountsTheSegmentDown :
    State.reset.tx.phase = .idle ∧ (sending .lgap 2 300).tx.phase ≠ .idle ∧ 1 < (sending .lgap 2 2).tx.cnt := by decide

theorem test_meets_AMarkEndsInTheSymbolGap :
    (sending .mark 0 1).tx.phase = .mark ∧ (sending .mark 0 1).tx.cnt = 1 := by decide

/-- The first and the last symbol of 'S', and the last with no inter-letter gap. -/
theorem test_meets_ASymbolGapEndsInTheNextSegment :
    ((sending .symgap 0 1).tx.phase = .symgap ∧ (sending .symgap 0 1).tx.cnt = 1 ∧
      exec .tick (sending .symgap 0 1) = .next { sending .symgap 0 1 with now := 1060, tx := inS .mark 1 60 }) ∧
    exec .tick (sending .symgap 2 1) = .next { sending .symgap 2 1 with now := 1060, tx := inS .lgap 2 300 } ∧
    exec .tick { sending .symgap 2 1 with cfg := { Config.ref with charGapMs := 0 } }
      = .next { sending .symgap 2 1 with cfg := { Config.ref with charGapMs := 0 }, now := 1060, tx := inS .idle 2 0 } :=
  ⟨⟨rfl, rfl, rfl⟩, rfl, rfl⟩

theorem test_meets_ALetterGapEndsInIdle :
    (sending .lgap 2 1).tx.phase = .lgap ∧ (sending .lgap 2 1).tx.cnt = 1 ∧
    TxInv (sending .lgap 2 1).cfg (sending .lgap 2 1).tx :=
  ⟨rfl, rfl, by decide, by decide, by decide, by decide⟩

theorem test_meets_TxcStartsTheFirstMarkOrCountsAMiss :
    State.reset.busy = false ∧ encodeChar State.reset.cfg.codeTable 0x21 = none ∧
    encodeChar State.reset.cfg.codeTable 0x54 = some ⟨1, 1⟩ ∧ (sending .mark 0 30).busy = true ∧
    State.reset.cfg.valid = true ∧ encodeChar ituTable 0x61 = some ⟨2, 0x02⟩ ∧ encodeChar ituTable 0x7A = some ⟨4, 0x03⟩ := by
  decide

/-- The total lengths of 95_test_vectors.md 2.6. -/
theorem test_meets_ACharacterPlaysItsSegments :
    State.reset.cfg.valid = true ∧ State.reset.busy = false ∧ State.reset.now < 2 ^ State.reset.cfg.timeW ∧
    encodeChar State.reset.cfg.codeTable 0x53 = some ⟨3, 0⟩ ∧ totalLength (segments State.reset.cfg ⟨3, 0⟩) = 660 ∧
    totalLength (segments State.reset.cfg ⟨5, 0x1F⟩) = 1500 := by decide

/-- A space, and R241's "SOS" with a space in it. -/
theorem test_meets_AStringPlaysItsCharactersInOrder :
    (State.reset.busy = false ∧ encodeChar State.reset.cfg.codeTable 0x20 = none) ∧
    (State.reset.cfg.valid = true ∧ State.reset.rst = false ∧ State.reset.port = none ∧
      TxInv State.reset.cfg State.reset.tx ∧ State.reset.now < 2 ^ State.reset.cfg.timeW) ∧
    totalLength ([0x53, 0x20, 0x4F, 0x53].flatMap (playedSegments State.reset.cfg)) = 2340 :=
  ⟨by decide, ⟨by decide, rfl, rfl, ⟨by decide, by decide, by decide, by decide⟩, by decide⟩, by decide⟩

theorem test_meets_TheCodeTableRoundTrips : codeTableOk ituTable = true ∧ 0x41 ∈ alphabet := by decide

/-- 95_test_vectors.md 2.2: either side of each range. -/
theorem test_meets_TheUnmappedBytes :
    (∀ c ∈ [0x00, 0x2F, 0x3A, 0x40, 0x5B, 0x60, 0x7B, 0xFF], encodeChar ituTable c = none) ∧
    (∀ c ∈ [0x30, 0x39, 0x41, 0x5A, 0x61, 0x7A], (encodeChar ituTable c).isSome = true) ∧
    codeTableOk ituTable = true := by decide

theorem test_meets_AFullBufferOfSixAlwaysMisses :
    let s := receiving Config.lb 1660 { Channel.reset Config.lb with len := 6 }
    s.cfg.maxMorseLength = 6 ∧ full s.cfg (s.ch .c0) = true := by decide

/-! ## RXS -/

/-- A sample that fits a slot of 12 bits, and one that does not fit a slot of 11. -/
theorem test_meets_AnAnalogPollWritesOneSlot :
    let s := receiving Config.ref 0 { Channel.reset Config.ref with widx := 9 }
    let t := State.resetOf { Config.ref with sampleW := 11 }
    (s.cfg.valid = true ∧ s.busy = false ∧ s.cfg.inputKind = .analog ∧ s.cfg.hasChannel .c0 = true ∧
      (4095 : Sample).toNat < 2 ^ s.cfg.sampleW) ∧
    t.cfg.valid = true ∧ t.busy = false ∧ ¬ (4095 : Sample).toNat < 2 ^ t.cfg.sampleW := by decide

theorem test_meets_ADigitalPollBypassesTheWindow :
    let s := State.resetOf Config.lbd
    s.busy = false ∧ s.cfg.inputKind = .digital ∧ (Instr.rxs .c1 1).wf s.cfg = true := by decide

/-- 95_test_vectors.md 2.3: the sums 10009 and 10010. -/
theorem test_meets_TheRawStateOfAnAnalogPoll :
    Config.ref.inputKind = .analog ∧ 1 ≤ Config.ref.filterSize ∧
    (condition Config.ref 1819 { Channel.reset Config.ref with win := [0, 4095, 4095, 0, 0, 0, 0, 0, 0, 0] }).2 = false ∧
    (condition Config.ref 1820 { Channel.reset Config.ref with win := [0, 4095, 4095, 0, 0, 0, 0, 0, 0, 0] }).2 = true :=
  ⟨rfl, by decide, rfl, rfl⟩

/-- 95_test_vectors.md S5. -/
theorem test_meets_TheMeanStaysWithinTheWindow :
    let win : List Sample := [1, 2, 3, 4, 5, 6, 7, 8, 9, 10]
    1 ≤ Config.ref.filterSize ∧ win.length = Config.ref.filterSize ∧ (∀ v ∈ win, 1 ≤ v.toNat ∧ v.toNat ≤ 10) ∧
    smooth Config.ref win = 5 :=
  ⟨by decide, by decide, by simp, rfl⟩

theorem test_meets_TheWindowHoldsTheLastSamples :
    StateInv State.reset ∧ State.reset.busy = false ∧ State.reset.cfg.inputKind = .analog ∧
    State.reset.cfg.hasChannel .c0 = true ∧ (List.replicate 10 (4095 : Sample)).length = State.reset.cfg.filterSize ∧
    (4095 : Sample).toNat < 2 ^ State.reset.cfg.sampleW :=
  ⟨stateInv_of_check (by decide), by decide, by decide, by decide, by decide, by decide⟩

theorem test_meets_TheWarmUpMean :
    State.reset.cfg.valid = true ∧ State.reset.busy = false ∧ State.reset.cfg.inputKind = .analog ∧
    State.reset.cfg.hasChannel .c0 = true ∧ State.reset.ch .c0 = Channel.reset State.reset.cfg ∧
    [4095, 4095, (4095 : Sample)].length ≤ State.reset.cfg.filterSize ∧
    (4095 : Sample).toNat < 2 ^ State.reset.cfg.sampleW := by decide

/-- 95_test_vectors.md 2.3, "from reset: raw 1 at 500: accepted". -/
theorem test_meets_AnAcceptedRisingEdge :
    let s := idleAt Config.lb500 500
    s.busy = false ∧ (Instr.rxs .c0 1).wf s.cfg = true ∧ (condition s.cfg 1 (s.ch .c0)).2 = true ∧
    (s.ch .c0).acc = false ∧ s.cfg.debounceTime ≤ subT s.cfg.timeW s.now (s.ch .c0).tTrans ∧
    s.cfg.peakDetectionThreshold ≤ subT s.cfg.timeW s.now (s.ch .c0).tRise := by decide

/-- 95_test_vectors.md 2.3, "raw 0 at 1050: accepted". -/
theorem test_meets_AnAcceptedFallingEdge :
    let s := receiving Config.lb500 1050 (pressed Config.lb500)
    s.busy = false ∧ (Instr.rxs .c0 0).wf s.cfg = true ∧ (condition s.cfg 0 (s.ch .c0)).2 = false ∧
    (s.ch .c0).acc = true ∧ s.cfg.debounceTime ≤ subT s.cfg.timeW s.now (s.ch .c0).tTrans := by decide

theorem test_meets_AFallingEdgeAppendsOneSymbol :
    let s := receiving Config.lb 1099 (pressed Config.lb)
    StateInv s ∧ s.busy = false ∧ (Instr.rxs .c0 0).wf s.cfg = true ∧ (condition s.cfg 0 (s.ch .c0)).2 = false ∧
    (s.ch .c0).acc = true ∧ s.cfg.debounceTime ≤ subT s.cfg.timeW s.now (s.ch .c0).tTrans ∧
    (s.ch .c0).len.toNat + 1 < s.cfg.maxMorseLength ∧ 0 < s.cfg.charGapMs ∧
    (s.cfg.dualSource = true → s.lastSrc = .c0) :=
  ⟨stateInv_of_check (by decide), by decide, by decide, by decide, by decide, by decide, by decide, by decide, by decide⟩

/-- No request, on an instance with two sources, and each of the two tests failing by 1 ms. -/
theorem test_meets_ADroppedRequestLeavesNoTrace :
    let r := receiving Config.lbd 1360 (oneDot Config.lbd)
    let s := receiving Config.lb500 1049 (pressed Config.lb500)
    let t := idleAt Config.lb500 499
    (r.busy = false ∧ (Instr.rxs .c1 0).wf r.cfg = true ∧ (condition r.cfg 0 (r.ch .c1)).2 = (r.ch .c1).acc) ∧
    (s.busy = false ∧ (Instr.rxs .c0 0).wf s.cfg = true ∧
      subT s.cfg.timeW s.now (s.ch .c0).tTrans < s.cfg.debounceTime) ∧
    (t.busy = false ∧ (Instr.rxs .c0 1).wf t.cfg = true ∧ (condition t.cfg 1 (t.ch .c0)).2 = true ∧
      subT t.cfg.timeW t.now (t.ch .c0).tRise < t.cfg.peakDetectionThreshold) := by decide

theorem test_meets_NothingIsAcceptedDuringTheHoldOff :
    let s := idleAt Config.lb500 499
    s.busy = false ∧ (Instr.rxs .c0 1).wf s.cfg = true ∧ s.now < 2 ^ s.cfg.timeW ∧ (s.ch .c0).tTrans = 0 ∧
    (s.ch .c0).tRise = 0 ∧ (s.ch .c0).acc = false ∧ s.now < s.cfg.peakDetectionThreshold := by decide

theorem test_meets_TheDurationComparator :
    99 < Config.ref.dashThreshold ∧ Config.ref.dashThreshold ≤ 100 ∧ Config.ref.dashThreshold = 100 ∧
    { Config.ref with dashThreshold := 0 }.dashThreshold = 0 := by decide

theorem test_meets_DurationsAreExactAcrossTheWrap : 2 ^ 32 - 1 < 2 ^ 32 := by decide

theorem test_meets_AStuckActiveLineOnlyFillsTheWindow :
    let s := receiving Config.lb 5000 (pressed Config.lb)
    StateInv s ∧ s.busy = false ∧ s.cfg.dualSource = false ∧ (Instr.rxs .c0 1).wf s.cfg = true ∧
    (condition s.cfg 1 s.ch0).2 = true ∧ s.ch0.acc = true :=
  ⟨stateInv_of_check (by decide), by decide, by decide, by decide, by decide, by decide⟩

/-- 95_test_vectors.md 2.2: "..." is 'S', "----" is nothing, and six symbols are nothing. -/
theorem test_meets_AFlushResolvesTheBuffer :
    decodeCode Config.ref.codeTable ⟨3, 0⟩ = some 0x53 ∧ decodeCode Config.ref.codeTable ⟨4, 0x0F⟩ = none ∧
    6 ≤ ({ Channel.reset Config.ref with len := 6 } : Channel).len.toNat := by decide

theorem test_meets_AnAppendFillsTheNextSlot :
    let s (n : BitVec 3) := receiving Config.ref 0 { Channel.reset Config.ref with len := n }
    (s 6).cfg.maxMorseLength ≤ 7 ∧ ((s 6).ch .c0).len.toNat = (s 6).cfg.maxMorseLength ∧
    ((s 5).ch .c0).len.toNat < (s 5).cfg.maxMorseLength ∧ ((s 5).ch .c0).len.toNat + 1 = (s 5).cfg.maxMorseLength ∧
    ((s 2).ch .c0).len.toNat + 1 < (s 2).cfg.maxMorseLength := by decide

theorem test_meets_SixSymbolsFlushOnce :
    State.reset.cfg.maxMorseLength = 6 ∧ (State.reset.ch .c0).len = 0 ∧ (State.reset.ch .c0).buf = 0 ∧
    (List.replicate 6 Symbol.dot).length = 6 ∧ (List.replicate 5 Symbol.dot).length = 5 := by decide

/-- 95_test_vectors.md 2.5: 1359 and 1360, with one source. -/
theorem test_meets_TheGapFlushesTheBuffer :
    let s := receiving Config.lb500 1360 (oneDot Config.lb500)
    let t := receiving Config.lb500 1359 (oneDot Config.lb500)
    (StateInv s ∧ s.busy = false ∧ (Instr.rxs .c0 0).wf s.cfg = true ∧
      (condition s.cfg 0 (s.ch .c0)).2 = (s.ch .c0).acc ∧ FlushWanted s .c0 ∧ ¬ FlushWanted s .c1) ∧
    StateInv t ∧ t.busy = false ∧ ¬ FlushWanted t .c0 ∧ ¬ FlushWanted t .c1 :=
  ⟨⟨stateInv_of_check (by decide), by decide, by decide, by decide, by decide, by decide⟩,
    stateInv_of_check (by decide), by decide, by decide, by decide⟩

/-- The same with two sources: both channels due, channel 1 alone (P7), and neither, its buffers empty. -/
theorem test_meets_TheGapFlushesTheBuffer_of_two_sources :
    let s := { receiving Config.lbd 1360 (oneDot Config.lbd) with ch1 := oneDot Config.lbd }
    let t := { idleAt Config.lbd 1360 with ch1 := oneDot Config.lbd, lastSrc := .c1 }
    (StateInv s ∧ FlushWanted s .c0 ∧ FlushWanted s .c1) ∧
    (StateInv t ∧ t.busy = false ∧ (Instr.rxs .c0 0).wf t.cfg = true ∧
      (condition t.cfg 0 (t.ch .c0)).2 = (t.ch .c0).acc ∧ ¬ FlushWanted t .c0 ∧ FlushWanted t .c1) ∧
    ¬ FlushWanted (idleAt Config.lbd 1360) .c0 ∧ ¬ FlushWanted (idleAt Config.lbd 1360) .c1 :=
  ⟨⟨stateInv_of_check (by decide), by decide, by decide⟩,
    ⟨stateInv_of_check (by decide), by decide, by decide, by decide, by decide, by decide⟩, by decide, by decide⟩

/-- 95_test_vectors.md 2.5: channel 0 holds [DOT], an edge comes on channel 1 at 1100. -/
theorem test_meets_ASourceChangeFlushesTheOtherBuffer :
    let s := receiving Config.lbd 1100 (oneDot Config.lbd)
    StateInv s ∧ s.busy = false ∧ s.cfg.dualSource = true ∧ (Instr.rxs .c1 1).wf s.cfg = true ∧
    (condition s.cfg 1 (s.ch .c1)).2 = true ∧ (s.ch .c1).acc = false ∧
    s.cfg.debounceTime ≤ subT s.cfg.timeW s.now (s.ch .c1).tTrans ∧
    s.cfg.peakDetectionThreshold ≤ subT s.cfg.timeW s.now (s.ch .c1).tRise ∧ 0 < (s.ch Chan.c1.other).len.toNat ∧
    decodeCode s.cfg.codeTable (bufferCode (s.ch Chan.c1.other)) = some 0x45 :=
  ⟨stateInv_of_check (by decide), by decide, by decide, by decide, by decide, by decide, by decide, by decide, by decide,
    by decide⟩

theorem test_meets_TheAssemblersTransitions :
    StateInv (receiving Config.lb 1060 (pressed Config.lb)) ∧
    ∃ t, exec (.rxs .c0 0) (receiving Config.lb 1060 (pressed Config.lb)) = .next t ∧ (t.ch .c0).len = 1 :=
  ⟨stateInv_of_check (by decide), _, rfl, by decide⟩

/-- Held, with operands the instance does not have, and a poll that flushes both channels. -/
theorem test_meets_APollEmitsAtMostOneEventPerChannel :
    let s := { receiving Config.lbd 1360 (oneDot Config.lbd) with ch1 := oneDot Config.lbd }
    (sending .mark 0 30).cfg.valid = true ∧ (sending .mark 0 30).busy = true ∧
    (Instr.rxs .c1 0).wf Config.ref = false ∧
    s.cfg.valid = true ∧ s.busy = false ∧ (Instr.rxs .c0 0).wf s.cfg = true ∧
    pollFlushes .c0 0 s = [(.c0, ⟨1, 0⟩), (.c1, ⟨1, 0⟩)] ∧
    resolvedEvents s.cfg (pollFlushes .c0 0 s) = [⟨.c0, 0x45⟩, ⟨.c1, 0x45⟩] := by decide

/-- A poll of channel 1 while channel 0 is due, and while it is not. -/
theorem test_meets_RxsFrame :
    let s (now : Nat) := receiving Config.lbd now (oneDot Config.lbd)
    (Instr.rxs .c1 0).wf (s 1360).cfg = true ∧ (s 1360).busy = false ∧
    (s 1360).cfg.hasChannel Chan.c1.other = true ∧
    flushDue (s 1360).now Chan.c1.other (afterEdge .c1 0 (s 1360)) = true ∧
    flushDue (s 1359).now Chan.c1.other (afterEdge .c1 0 (s 1359)) = false ∧
    (sending .mark 0 30).busy = true := by decide

/-! ## The whole machine -/

theorem test_meets_EveryStepKeepsTheInvariants :
    let s := acting (receiving Config.lb 1060 (pressed Config.lb)) (some 0x2000) .host
    StateInv s ∧ ∃ t, step s = .next t ∧ t.ch0.len = 1 :=
  ⟨stateInv_of_check (by decide), _, rfl, by decide⟩

theorem test_meets_TheInvariantsHoldAtReset : Config.lbd.valid = true := by decide

theorem test_meets_OnlyTickWritesNow :
    ∃ t, step (acting State.reset none .clock) = .next t ∧ t.now ≠ (acting State.reset none .clock).now :=
  ⟨_, rfl, by decide⟩

theorem test_meets_TheOutputStreamOnlyGrows :
    let s := acting (receiving Config.lb 1360 (oneDot Config.lb)) (some 0x2000) .host
    s.env = [.host] ∧ ∃ t, step s = .next t ∧ t.out = [⟨.c0, 0x45⟩] := ⟨rfl, _, rfl, by decide⟩

theorem test_meets_OnlyLettersAndDigitsAreEmitted :
    let s := acting (receiving Config.lb 1360 (oneDot Config.lb)) (some 0x2000) .host
    OutIsText s ∧ ∃ t, step s = .next t ∧ t.out ≠ [] := ⟨by unfold OutIsText; decide, _, rfl, by decide⟩

theorem test_meets_IllIsSticky :
    let s := { acting State.reset (some 0x0000) .host with ill := true }
    s.ill = true ∧ ∃ t, step s = .next t := ⟨rfl, _, rfl⟩

theorem test_meets_NoStepWritesAParameter : ∃ t, step (acting State.reset (some 0x4053) .host) = .next t := ⟨_, rfl⟩

theorem test_meets_NoRuleDependsOnThePlatform :
    ∃ t, step (acting State.reset (some 0x2FFF) .host) = .next t := ⟨_, rfl⟩

end Sys2Proof.Tests
end

/-!
PROOFS. Which configurations are valid (R9), which tables are code tables (R130, R131), and that an invalid
configuration takes no step.
-/

namespace Sys2Proof.Machine

/-- R130: no bit at or past the length, said of the numbers. -/
theorem bits_lt_two_pow_len_iff (w : CodeWord) :
    w.bits.toNat < 2 ^ w.len.toNat ↔ ∀ i, w.len.toNat ≤ i → w.bits.getLsbD i = false := by
  constructor
  · intro h i hi
    exact Nat.testBit_lt_two_pow (h.trans_le (Nat.pow_le_pow_right (by decide) hi))
  · intro h
    exact Nat.lt_pow_two_of_testBit _ h

theorem codeWord_ok_iff (w : CodeWord) :
    w.ok = true ↔ 1 ≤ w.len.toNat ∧ w.len.toNat ≤ 5 ∧ ∀ i, w.len.toNat ≤ i → w.bits.getLsbD i = false := by
  simp only [CodeWord.ok, Bool.and_eq_true, decide_eq_true_eq, bits_lt_two_pow_len_iff, and_assoc]

theorem codesDistinct_iff_nodup (ws : List CodeWord) : codesDistinct ws = true ↔ ws.Nodup := by
  induction ws with
  | nil => simp [codesDistinct]
  | cons w rest ih =>
    have notMem : rest.all (fun v => !(w == v)) = true ↔ w ∉ rest := by simp [List.forall_mem_ne]
    rw [codesDistinct, Bool.and_eq_true, notMem, ih, List.nodup_cons]

/-- R131: 26 letters and 10 digits. -/
theorem codeTable_length {t : List CodeEntry} (h : t.map CodeEntry.char = alphabet) : t.length = 36 := by
  rw [← List.length_map (f := CodeEntry.char), h]; rfl

/-- The invariants of R131, with the codes of R130, entry by entry. -/
theorem codeTableOk_iff_entries (t : List CodeEntry) :
    codeTableOk t = true ↔
      t.map CodeEntry.char = alphabet ∧ t.length = 36 ∧
      (∀ e ∈ t, 1 ≤ e.code.len.toNat ∧ e.code.len.toNat ≤ 5 ∧
        ∀ i, e.code.len.toNat ≤ i → e.code.bits.getLsbD i = false) ∧
      (t.map CodeEntry.code).Nodup := by
  simp only [codeTableOk_iff, List.all_eq_true, List.forall_mem_map, codeWord_ok_iff, codesDistinct_iff_nodup]
  exact ⟨fun ⟨chars, rest⟩ => ⟨chars, codeTable_length chars, rest⟩, fun ⟨chars, _, rest⟩ => ⟨chars, rest⟩⟩

/-- The lines of R9. -/
theorem config_valid_iff (c : Config) :
    c.valid = true ↔
      (1 ≤ c.filterSize ∧ c.filterSize ≤ 15) ∧ c.soundThreshold ≤ 4095 ∧
      (1 ≤ c.dotLength ∧ 1 ≤ c.dashLength) ∧
      (c.debounceTime < 2 ^ c.timeW ∧ c.peakDetectionThreshold < 2 ^ c.timeW ∧
        c.dashThreshold < 2 ^ c.timeW ∧ c.charGapMs < 2 ^ c.timeW ∧
        c.dotLength < 2 ^ c.timeW ∧ c.dashLength < 2 ^ c.timeW) ∧
      (1 ≤ c.maxMorseLength ∧ c.maxMorseLength ≤ 7) ∧ codeTableOk c.codeTable = true := by
  simp only [Config.valid, Bool.and_eq_true, decide_eq_true_eq, List.all_cons, List.all_nil, and_true, and_assoc]

theorem step_refused_of_invalid {s : State} (h : s.cfg.valid = false) : step s = .refused .invalidConfiguration := by
  simp [step, blockStep, h]

/-- Settles O12: each line of R9 is a conjunct of `Config.valid`, and the step asks for validity first. -/
theorem aConfigurationOutsideItsBoundsIsRefused : Obligations.AConfigurationOutsideItsBoundsIsRefused := by
  unfold Obligations.AConfigurationOutsideItsBoundsIsRefused
  intro s
  refine ⟨?_, step_refused_of_invalid⟩
  rw [config_valid_iff, codeTableOk_iff_entries]

end Sys2Proof.Machine

/-!
PROOFS. The invariants of R53 and the register widths: the reset action sets them up, and each shared operation of the
receiver and of the transmitter keeps them.
-/

namespace Sys2Proof.Machine

/-! The registers after reset. -/

theorem channelInv_reset {cfg : Config} (hv : cfg.valid = true) : ChannelInv cfg (Channel.reset cfg) := by
  obtain ⟨⟨oneLe, -⟩, -, -, -, ⟨capPos, -⟩, -⟩ := (config_valid_iff cfg).1 hv
  have hw := Nat.two_pow_pos cfg.timeW
  exact {
    winLength := by simp [Channel.reset]
    widxBelowN := oneLe
    pendIsAcc := rfl
    pendingTimes := fun _ => ⟨rfl, rfl⟩
    restTimes := fun _ => rfl
    lenBelowCap := capPos
    emptySlots := fun _ _ => by simp [Channel.reset]
    timesInRange := ⟨hw, hw, hw, hw⟩
    slotsInRange := fun v mem => by
      rw [List.eq_of_mem_replicate mem]
      exact Nat.two_pow_pos cfg.sampleW }

theorem txInv_reset (cfg : Config) : TxInv cfg Transmitter.reset :=
  ⟨by simp [Transmitter.reset], by simp [Transmitter.reset], fun busy => absurd rfl busy, Nat.two_pow_pos cfg.timeW⟩

/-- After the reset action, with the pin at either level (R56, R310). -/
theorem stateInv_applyReset {s : State} (hv : s.cfg.valid = true) (level : Bool) :
    StateInv { s.applyReset with rst := level } :=
  ⟨hv, channelInv_reset hv, channelInv_reset hv, txInv_reset s.cfg, Nat.two_pow_pos s.cfg.timeW,
    fun _ => ⟨rfl, rfl⟩, fun _ => rfl⟩

theorem stateInv_resetOf {cfg : Config} (hv : cfg.valid = true) : StateInv (State.resetOf cfg) :=
  stateInv_applyReset (s := State.resetOf cfg) hv false

/-- Settles O53: the state after reset is the reset action's own result. -/
theorem theInvariantsHoldAtReset : Obligations.TheInvariantsHoldAtReset :=
  ⟨fun _ hv => stateInv_resetOf hv, stateInv_resetOf (by decide)⟩

/-! A channel's registers. -/

/-- A flush empties the buffer and writes no other register (R203). -/
theorem ChannelInv.emptied {cfg : Config} {c : Channel} (h : ChannelInv cfg c) :
    ChannelInv cfg { c with len := 0, buf := 0 } :=
  { h with
    lenBelowCap := Nat.zero_lt_of_lt h.lenBelowCap
    emptySlots := fun _ _ => by simp }

/-- A symbol that leaves the buffer below capacity (R201, R202). -/
theorem ChannelInv.pushSymbol {cfg : Config} {c : Channel} (hv : cfg.valid = true) (h : ChannelInv cfg c)
    (sym : Symbol) (below : full cfg (pushSymbol sym c) = false) : ChannelInv cfg (pushSymbol sym c) := by
  obtain ⟨-, -, -, -, ⟨-, capLe⟩, -⟩ := (config_valid_iff cfg).1 hv
  have oneMore := pushSymbol_len capLe h.lenBelowCap sym
  have notCap : (Machine.pushSymbol sym c).len.toNat ≠ cfg.maxMorseLength := by simpa [full] using below
  have lenLt := h.lenBelowCap
  refine { h with lenBelowCap := by omega, emptySlots := fun i hi => ?_ }
  rw [oneMore] at hi
  simp only [Machine.pushSymbol]
  rw [getLsbD_setBit _ _ _ _ (by omega), if_neg (by omega)]
  exact h.emptySlots i (by omega)

/-- The window takes a value of its slot's width and the index stays in it (R32, R33, R151). -/
theorem ChannelInv.windowWrite {cfg : Config} {c : Channel} (hv : cfg.valid = true) (h : ChannelInv cfg c)
    (x : Sample) : ChannelInv cfg (windowWrite cfg x c) := by
  obtain ⟨⟨oneLe, leFifteen⟩, -⟩ := (config_valid_iff cfg).1 hv
  exact { h with
    winLength := by simp [Machine.windowWrite, h.winLength]
    widxBelowN := by
      have modLt := Nat.mod_lt (c.widx.toNat + 1) oneLe
      simp only [Machine.windowWrite, BitVec.toNat_ofNat]
      omega
    slotsInRange := fun v mem => by
      rcases List.mem_or_eq_of_mem_set mem with old | rfl
      · exact h.slotsInRange v old
      · exact slotSample_lt cfg x }

theorem ChannelInv.condition {cfg : Config} {c : Channel} (hv : cfg.valid = true) (h : ChannelInv cfg c)
    (x : Sample) : ChannelInv cfg (condition cfg x c).1 := by
  rw [condition_frame]
  split
  · exact h.windowWrite hv x
  · exact h

/-- A channel after an accepted rising edge at `now` (R156, R180). -/
def Channel.risen (now : Nat) (c : Channel) : Channel :=
  { c with acc := true, tTrans := now, pend := true, start := now, tRise := now }

/-- A channel after an accepted falling edge at `now`, its symbol not yet appended (R156, R181). -/
def Channel.fallen (now : Nat) (c : Channel) : Channel :=
  { c with acc := false, tTrans := now, pend := false, tFall := now }

theorem ChannelInv.risen {cfg : Config} {c : Channel} {now : Nat} (h : ChannelInv cfg c) (hn : now < 2 ^ cfg.timeW) :
    ChannelInv cfg (c.risen now) := by
  obtain ⟨-, -, -, fallLt⟩ := h.timesInRange
  exact { h with
    pendIsAcc := rfl
    pendingTimes := fun _ => ⟨rfl, rfl⟩
    restTimes := nofun
    timesInRange := ⟨hn, hn, hn, fallLt⟩ }

theorem ChannelInv.fallen {cfg : Config} {c : Channel} {now : Nat} (h : ChannelInv cfg c) (hn : now < 2 ^ cfg.timeW) :
    ChannelInv cfg (c.fallen now) := by
  obtain ⟨startLt, -, riseLt, -⟩ := h.timesInRange
  exact { h with
    pendIsAcc := rfl
    pendingTimes := nofun
    restTimes := fun _ => rfl
    timesInRange := ⟨startLt, hn, riseLt, hn⟩ }

theorem channelInv_append {s : State} {k : Chan} (hv : s.cfg.valid = true) (h : ChannelInv s.cfg (s.ch k))
    (sym : Symbol) : ChannelInv s.cfg ((append k sym s).ch k) := by
  rw [append_ch_self]
  split
  · exact h
  split
  · exact h.emptied
  · exact h.pushSymbol hv sym (Bool.eq_false_of_not_eq_true ‹_›)

/-! A poll. -/

theorem afterEdge_cfg (k : Chan) (x : Sample) (s : State) : (afterEdge k x s).cfg = s.cfg := by
  obtain ⟨cfgEq, -⟩ := handleEdge_frame k s.now (acceptEdge s.cfg s.now x (s.ch k)).2
    (s.setCh k (acceptEdge s.cfg s.now x (s.ch k)).1)
  exact cfgEq.trans (s.setCh_cfg k _)

/-- What a poll does before its flush triggers: no edge, a rising one, or a falling one with its symbol (R150). -/
theorem afterEdge_cases (k : Chan) (x : Sample) (s : State) :
    afterEdge k x s = s.setCh k (condition s.cfg x (s.ch k)).1 ∨
    afterEdge k x s = (s.setCh k ((condition s.cfg x (s.ch k)).1.risen s.now)).setLastSrc k ∨
    ∃ sym, afterEdge k x s = append k sym (s.setCh k ((condition s.cfg x (s.ch k)).1.fallen s.now)) := by
  unfold afterEdge acceptEdge
  rcases transition_cases s.cfg s.now (condition s.cfg x (s.ch k)).2 (condition s.cfg x (s.ch k)).1 with
    ⟨noEdge, -⟩ | ⟨edge, -, -⟩
  · exact .inl (by rw [noEdge]; rfl)
  · rw [edge]
    cases (condition s.cfg x (s.ch k)).2
    · exact .inr (.inr ⟨classifyDuration s.cfg (subT s.cfg.timeW s.now (condition s.cfg x (s.ch k)).1.start),
        by simp [handleEdge, pulseEnd, Channel.fallen]⟩)
    · exact .inr (.inl (by simp [handleEdge, pulseStart, Channel.risen]))

theorem channelInv_afterEdge {s : State} {k : Chan} (hv : s.cfg.valid = true) (hn : s.now < 2 ^ s.cfg.timeW)
    (h : ChannelInv s.cfg (s.ch k)) (x : Sample) : ChannelInv s.cfg ((afterEdge k x s).ch k) := by
  have conditioned := h.condition hv x
  rcases afterEdge_cases k x s with noEdge | rise | ⟨sym, fall⟩
  · simpa [noEdge] using conditioned
  · simpa [rise] using conditioned.risen hn
  · rw [fall]
    have fallen := conditioned.fallen hn
    simpa using channelInv_append (s := s.setCh k ((condition s.cfg x (s.ch k)).1.fallen s.now)) (k := k)
      (by simpa using hv) (by simpa using fallen) sym

theorem StateInv.ch {s : State} (hs : StateInv s) (k : Chan) : ChannelInv s.cfg (s.ch k) := by
  cases k
  · exact hs.ch0Inv
  · exact hs.ch1Inv

theorem channelInv_poll {s : State} (hs : StateInv s) (k : Chan) (x : Sample) (j : Chan) :
    ChannelInv s.cfg ((poll k x s).ch j) := by
  have edge : ChannelInv s.cfg ((afterEdge k x s).ch j) := by
    rcases chan_eq_or_other j k with rfl | rfl
    · exact channelInv_afterEdge hs.cfgValid hs.nowInRange (hs.ch _) x
    · rw [afterEdge_ch_other]; exact hs.ch _
  rcases poll_ch_cases k x s j with e | e <;> rw [e]
  · exact edge
  · exact edge.emptied

/-- With a single source a poll of channel 0 leaves the registers of the second alone (R10, R41). -/
theorem poll_singleSource {s : State} (hd : s.cfg.dualSource = false) (x : Sample) :
    (poll .c0 x s).ch1 = s.ch1 ∧ (poll .c0 x s).lastSrc = s.lastSrc := by
  constructor
  · have untouched : (flushAll s.now (afterEdge .c0 x s)).ch .c1 = (afterEdge .c0 x s).ch .c1 := by
      rw [flushAll_ch]
      simp [afterEdge_cfg, Config.hasChannel, hd]
    exact untouched.trans (afterEdge_ch_other .c0 x s)
  · rw [(poll_frame .c0 x s).lastSrc]
    rcases afterEdge_cases .c0 x s with noEdge | rise | ⟨sym, fall⟩
    · simp [noEdge]
    · simp [rise, hd]
    · obtain ⟨_, frame, _⟩ := append_onlyBuffers .c0 sym
        (s.setCh .c0 ((condition s.cfg x (s.ch .c0)).1.fallen s.now))
      rw [fall, frame.lastSrc]; simp

theorem stateInv_poll {s : State} {k : Chan} {x : Sample} (hs : StateInv s) (hr : s.rst = false)
    (hk : s.cfg.hasChannel k = true) : StateInv (poll k x s) := by
  have frame := poll_frame k x s
  have channel := channelInv_poll hs k x
  refine ⟨?_, ?_, ?_, ?_, ?_, ?_, ?_⟩
  · rw [frame.cfg]; exact hs.cfgValid
  · rw [frame.cfg]; exact channel .c0
  · rw [frame.cfg]; exact channel .c1
  · rw [frame.cfg, frame.tx]; exact hs.txInv
  · rw [frame.cfg, frame.now]; exact hs.nowInRange
  · rw [frame.cfg]
    intro hd
    have polled : k = .c0 := by cases k <;> simp_all [Config.hasChannel]
    subst polled
    obtain ⟨ch1Eq, lastSrcEq⟩ := poll_singleSource hd x
    rw [ch1Eq, lastSrcEq]
    exact hs.singleSource hd
  · rw [frame.rst, hr]; nofun

/-! The transmitter. -/

theorem markLength_bounds {cfg : Config} (hv : cfg.valid = true) (bits : BitVec 5) (i : Nat) :
    1 ≤ markLength cfg bits i ∧ markLength cfg bits i < 2 ^ cfg.timeW := by
  obtain ⟨-, -, ⟨dotPos, dashPos⟩, ⟨-, -, -, -, dotLt, dashLt⟩, -⟩ := (config_valid_iff cfg).1 hv
  unfold markLength
  split
  · exact ⟨dashPos, dashLt⟩
  · exact ⟨dotPos, dotLt⟩

/-- The registers of a segment in progress (R43 to R46). -/
theorem txInv_of_busy {cfg : Config} {t : Transmitter} (busy : t.phase ≠ .idle) (line : t.out = true ↔ t.phase = .mark)
    (code : 1 ≤ t.len.toNat ∧ t.len.toNat ≤ 5 ∧ t.idx.toNat < t.len.toNat)
    (count : 1 ≤ t.cnt ∧ t.cnt < 2 ^ cfg.timeW) : TxInv cfg t :=
  ⟨by simp [busy, Nat.ne_of_gt count.1], line, fun _ => code, count.2⟩

theorem txInv_of_idle {cfg : Config} {t : Transmitter} (idle : t.phase = .idle) (line : t.out = false)
    (count : t.cnt = 0) : TxInv cfg t :=
  ⟨by simp [idle, count], by simp [idle, line], fun busy => absurd idle busy, by simp [count]⟩

theorem txInv_startCharacter {cfg : Config} (hv : cfg.valid = true) {w : CodeWord}
    (hw : 1 ≤ w.len.toNat ∧ w.len.toNat ≤ 5) : TxInv cfg (startCharacter cfg w) :=
  txInv_of_busy (by simp [startCharacter]) (by simp [startCharacter]) ⟨hw.1, hw.2, hw.1⟩ (markLength_bounds hv _ _)

/-- The end of a segment starts the next one, or leaves the transmitter at rest (R234 to R237). -/
theorem txInv_segmentEnd {cfg : Config} {t : Transmitter} (hv : cfg.valid = true) (busy : t.phase ≠ .idle)
    (line : t.out = true ↔ t.phase = .mark)
    (code : 1 ≤ t.len.toNat ∧ t.len.toNat ≤ 5 ∧ t.idx.toNat < t.len.toNat) (count : t.cnt = 0) :
    TxInv cfg (segmentEnd cfg t) := by
  obtain ⟨-, -, ⟨dotPos, -⟩, ⟨-, -, -, gapLt, dotLt, -⟩, -⟩ := (config_valid_iff cfg).1 hv
  unfold segmentEnd
  cases phase : t.phase with
  | idle => exact absurd phase busy
  | mark => exact txInv_of_busy (by simp [endMark]) (by simp [endMark]) code ⟨dotPos, dotLt⟩
  | symgap =>
    have low : t.out = false := by simpa [phase] using line
    simp only [endSymgap]
    split
    · have nextIdx : (t.idx + 1).toNat = t.idx.toNat + 1 := by
        rw [BitVec.toNat_add_of_lt (by simp; omega)]; rfl
      exact txInv_of_busy (by simp) (by simp) (by simp only [nextIdx]; omega) (markLength_bounds hv _ _)
    split
    · exact txInv_of_busy (by simp) (by simp [low]) code ⟨‹_›, gapLt⟩
    · exact txInv_of_idle rfl low count
  | lgap => exact txInv_of_idle rfl (by simpa [phase, endLgap] using line) count

theorem txInv_txTick {cfg : Config} {t : Transmitter} (hv : cfg.valid = true) (h : TxInv cfg t) :
    TxInv cfg (txTick cfg t) := by
  by_cases idle : t.phase = .idle
  · simpa [txTick, idle] using h
  have counted : txTick cfg t = if t.cnt - 1 = 0 then segmentEnd cfg { t with cnt := t.cnt - 1 }
      else { t with cnt := t.cnt - 1 } := by
    cases phase : t.phase <;> simp_all [txTick]
  have code := h.symbolInCode idle
  rw [counted]
  split
  · exact txInv_segmentEnd hv idle h.highIffMark code ‹_›
  · have countLt := Nat.lt_of_le_of_lt (Nat.sub_le t.cnt 1) h.cntInRange
    exact txInv_of_busy idle h.highIffMark code ⟨Nat.one_le_iff_ne_zero.2 ‹_›, countLt⟩

/-! An instruction. -/

/-- The invariants say nothing of the other registers while `RST` is released. -/
theorem StateInv.of_sameRegisters {s t : State} (hs : StateInv s) (hr : t.rst = false) (cfgEq : t.cfg = s.cfg)
    (ch0Eq : t.ch0 = s.ch0) (ch1Eq : t.ch1 = s.ch1) (lastSrcEq : t.lastSrc = s.lastSrc) (nowEq : t.now = s.now)
    (txEq : t.tx = s.tx) : StateInv t :=
  ⟨cfgEq ▸ hs.cfgValid, cfgEq ▸ ch0Eq ▸ hs.ch0Inv, cfgEq ▸ ch1Eq ▸ hs.ch1Inv, cfgEq ▸ txEq ▸ hs.txInv,
    cfgEq ▸ nowEq ▸ hs.nowInRange, cfgEq ▸ ch1Eq ▸ lastSrcEq ▸ hs.singleSource,
    fun asserted => by simp [hr] at asserted⟩

theorem StateInv.setTx {s : State} {t : Transmitter} (hs : StateInv s) (hr : s.rst = false) (ht : TxInv s.cfg t) :
    StateInv (s.setTx t) :=
  ⟨hs.cfgValid, hs.ch0Inv, hs.ch1Inv, ht, hs.nowInRange, hs.singleSource, fun asserted => by simp [hr] at asserted⟩

theorem StateInv.advanceNow {s : State} (hs : StateInv s) (hr : s.rst = false) : StateInv s.advanceNow :=
  ⟨hs.cfgValid, hs.ch0Inv, hs.ch1Inv, hs.txInv, addT_lt _ _ _, hs.singleSource,
    fun asserted => by simp [hr] at asserted⟩

theorem StateInv.raiseIll {s : State} (hs : StateInv s) (hr : s.rst = false) : StateInv s.raiseIll :=
  hs.of_sameRegisters hr rfl rfl rfl rfl rfl rfl

theorem StateInv.clearPort {s : State} (hs : StateInv s) (hr : s.rst = false) : StateInv s.clearPort :=
  hs.of_sameRegisters hr rfl rfl rfl rfl rfl rfl

theorem stateInv_tick {s : State} (hs : StateInv s) (hr : s.rst = false) : StateInv (tick s) :=
  (hs.advanceNow hr).setTx hr (txInv_txTick hs.cfgValid hs.txInv)

/-- Every way an instruction answers a next state: held or idle, an illegal word's effect, a poll, a byte without and
with a code, a millisecond. -/
theorem exec_cases {i : Instr} {s t : State} (h : exec i s = .next t) :
    t = s ∨ t = s.raiseIll ∨
    (∃ k x, i = .rxs k x ∧ (Instr.rxs k x).wf s.cfg = true ∧ t = poll k x s) ∨
    (∃ c, i = .txc c ∧ encodeChar s.cfg.codeTable c = none ∧ t = s.countEncMiss) ∨
    (∃ c w, i = .txc c ∧ encodeChar s.cfg.codeTable c = some w ∧ t = s.setTx (startCharacter s.cfg w)) ∨
    (i = .tick ∧ t = tick s) := by
  cases i with
  | nop =>
    simp only [exec, execNop, whenReady] at h
    split at h <;> (cases h; exact .inl rfl)
  | rxs k x =>
    simp only [exec] at h
    rcases execRxs_cases k x s with ⟨-, held⟩ | ⟨-, -, illegal⟩ | ⟨-, wf, polled⟩
    · rw [held] at h; cases h; exact .inl rfl
    · rw [illegal] at h; cases h; exact .inr (.inl rfl)
    · rw [polled] at h; cases h; exact .inr (.inr (.inl ⟨k, x, rfl, wf, rfl⟩))
  | txc c =>
    simp only [exec, execTxc, whenReady] at h
    split at h
    · cases h; exact .inl rfl
    cases h
    cases mapped : encodeChar s.cfg.codeTable c with
    | none => exact .inr (.inr (.inr (.inl ⟨c, rfl, mapped, rfl⟩)))
    | some w => exact .inr (.inr (.inr (.inr (.inl ⟨c, w, rfl, mapped, rfl⟩))))
  | tick => cases h; exact .inr (.inr (.inr (.inr (.inr ⟨rfl, rfl⟩))))

theorem stateInv_exec {s t : State} {i : Instr} (hs : StateInv s) (hr : s.rst = false) (h : exec i s = .next t) :
    StateInv t := by
  rcases exec_cases h with rfl | rfl | ⟨k, x, -, wf, rfl⟩ | ⟨c, -, -, rfl⟩ | ⟨c, w, -, mapped, rfl⟩ | ⟨-, rfl⟩
  · exact hs
  · exact hs.raiseIll hr
  · have hasChannel : s.cfg.hasChannel k = true := by
      simp only [Instr.wf, Bool.and_eq_true] at wf
      exact wf.1
    exact stateInv_poll hs hr hasChannel
  · exact hs.of_sameRegisters hr rfl rfl rfl rfl rfl rfl
  · have codeLen := encodeChar_len (codeTableOk_of_valid hs.cfgValid) mapped
    exact hs.setTx hr (txInv_startCharacter hs.cfgValid codeLen)
  · exact stateInv_tick hs hr

/-! A step. -/

theorem StateInv.beginStep {s : State} (hs : StateInv s) (rest : List EnvStep) : StateInv (s.beginStep rest) :=
  ⟨hs.cfgValid, hs.ch0Inv, hs.ch1Inv, hs.txInv, hs.nowInRange, hs.singleSource,
    fun asserted => congrArg (State.beginStep · rest) (hs.heldInReset asserted)⟩

/-- While `RST` is asserted a step only takes the environment's act away, or drives the pin (R293, R310). -/
theorem step_while_reset {s t : State} (hr : s.rst = true) (h : step s = .next t) :
    t = s ∨ ∃ rest, t = s.beginStep rest ∨ ∃ level, t = { (s.beginStep rest).applyReset with rst := level } := by
  simp only [step, blockStep] at h
  split at h
  case isFalse => cases h
  split at h
  · cases h; exact .inl rfl
  rename_i e rest _
  refine .inr ⟨rest, ?_⟩
  cases e with
  | present w => exact .inl (by simpa [envStep, presentWord, hr, eq_comm] using h)
  | host => exact .inl (by simpa [envStep, hostStep, hr, eq_comm] using h)
  | clock => exact .inl (by simpa [envStep, clockStep, hr, eq_comm] using h)
  | reset level => exact .inr ⟨level, by simpa [envStep, resetStep, hr, eq_comm] using h⟩

theorem stateInv_step_of_asserted {s t : State} (hs : StateInv s) (hr : s.rst = true) (h : step s = .next t) :
    StateInv t := by
  rcases step_while_reset hr h with rfl | ⟨rest, rfl | ⟨level, rfl⟩⟩
  · exact hs
  · exact hs.beginStep rest
  · exact stateInv_applyReset (s := s.beginStep rest) hs.cfgValid level

theorem stateInv_step_of_released {s t : State} (hs : StateInv s) (hr : s.rst = false) (h : step s = .next t) :
    StateInv t := by
  obtain ⟨-, ⟨-, rfl⟩ | ⟨e, rest, -, act⟩⟩ := step_cases h
  · exact hs
  have begun := hs.beginStep rest
  rcases act with rfl | ⟨w, -, rfl⟩ | ⟨w, i, -, -, -, -, performed⟩ | ⟨-, rfl⟩ | ⟨-, -, ticked⟩ | ⟨level, -, rfl⟩
  · exact begun
  · exact begun.of_sameRegisters hr rfl rfl rfl rfl rfl rfl
  · exact stateInv_exec (begun.clearPort hr) hr performed
  · exact (begun.clearPort hr).raiseIll hr
  · exact stateInv_exec begun hr ticked
  · exact stateInv_applyReset (s := s.beginStep rest) hs.cfgValid level

/-- Settles O52, by the level of `RST`: asserted, the block holds the reset state; released, a step performs at most one
instruction, and each keeps the invariants. -/
theorem everyStepKeepsTheInvariants : Obligations.EveryStepKeepsTheInvariants := by
  unfold Obligations.EveryStepKeepsTheInvariants
  intro s t hs h
  cases hr : s.rst
  · exact stateInv_step_of_released hs hr h
  · exact stateInv_step_of_asserted hs hr h

end Sys2Proof.Machine

/-!
PROOFS. What every act of the environment but a drive of the reset pin leaves as it was, said once; and what a step
emits.
-/

namespace Sys2Proof.Machine

/-- From `s` to `t` the act `e`, no drive of the reset pin, was performed: no parameter written (R50), `NOW` written by
a strobe alone (R42), `ILL` not cleared (R47), and `OUT` longer by the events presented (R52, R294). -/
structure ActFrame (e : EnvStep) (s t : State) : Prop where
  cfg : t.cfg = s.cfg
  now : e ≠ .clock → t.now = s.now
  ill : s.ill = true → t.ill = true
  out : t.out = s.out ++ t.charPort

/-- The frame of an instruction performed at the start of a step, whatever the port held. -/
theorem ActFrame.of_exec {e : EnvStep} {i : Instr} {s u t : State} (h : exec i u = .next t)
    (strobed : i = .tick → e = .clock) (cfg : u.cfg = s.cfg) (now : u.now = s.now) (ill : u.ill = s.ill)
    (out : u.out = s.out) (charPort : u.charPort = []) : ActFrame e s t := by
  have frame := exec_frame h
  obtain ⟨new, outEq, charPortEq⟩ := frame.events
  exact {
    cfg := frame.cfg.trans cfg
    now := fun notClock => (frame.now (fun isTick => notClock (strobed isTick))).trans now
    ill := fun set => frame.ill (ill.trans set)
    out := by rw [outEq, charPortEq, out, charPort, List.nil_append] }

/-- A step takes an act of the environment, within its frame or driving the reset pin, or has none to take. -/
theorem step_frame {s t : State} (h : step s = .next t) :
    (s.env = [] ∧ t = s) ∨
    ∃ e rest, s.env = e :: rest ∧
      (ActFrame e s t ∨ ∃ level, e = .reset level ∧ t = { (s.beginStep rest).applyReset with rst := level }) := by
  obtain ⟨-, quiet | ⟨e, rest, envEq, act⟩⟩ := step_cases h
  · exact .inl quiet
  refine .inr ⟨e, rest, envEq, ?_⟩
  rcases act with rfl | ⟨w, -, rfl⟩ | ⟨w, i, -, -, -, decoded, performed⟩ | ⟨-, rfl⟩ | ⟨isClock, -, ticked⟩ | driven
  · exact .inl ⟨rfl, fun _ => rfl, id, by simp⟩
  · exact .inl ⟨rfl, fun _ => rfl, id, by simp⟩
  · have noTick : i ≠ .tick := fun isTick => decodeCmd_ne_tick s.cfg w (isTick ▸ decoded)
    exact .inl (.of_exec performed (fun isTick => absurd isTick noTick) rfl rfl rfl rfl rfl)
  · exact .inl ⟨rfl, fun _ => rfl, fun _ => rfl, by simp⟩
  · exact .inl (.of_exec ticked (fun _ => isClock) rfl rfl rfl rfl rfl)
  · exact .inr driven

/-- Settles O54: in the frame of an act `NOW` stays unless the act is a strobe. -/
theorem onlyTickWritesNow : Obligations.OnlyTickWritesNow := by
  unfold Obligations.OnlyTickWritesNow
  intro s t h changed
  rcases step_frame h with ⟨-, rfl⟩ | ⟨e, rest, envEq, frame | ⟨level, rfl, -⟩⟩
  · exact absurd rfl changed
  · have isClock : e = .clock := by_contra fun notClock => changed (frame.now notClock)
    exact ⟨rest, .inl (isClock ▸ envEq)⟩
  · exact ⟨rest, .inr ⟨level, envEq⟩⟩

/-- Settles O55: the frame of an act says it, and the reset action presents nothing and keeps `OUT`. -/
theorem theOutputStreamOnlyGrows : Obligations.TheOutputStreamOnlyGrows := by
  unfold Obligations.TheOutputStreamOnlyGrows
  intro s t e rest envEq h
  rcases step_frame h with ⟨noAct, -⟩ | ⟨_, _, -, frame | ⟨_, -, rfl⟩⟩
  · simp [noAct] at envEq
  · exact frame.out
  · simp

/-- Settles O57: no act but a drive of the reset pin clears `ILL`. -/
theorem illIsSticky : Obligations.IllIsSticky := by
  unfold Obligations.IllIsSticky
  intro s t set h
  rcases step_frame h with ⟨-, rfl⟩ | ⟨e, rest, envEq, frame | ⟨level, rfl, -⟩⟩
  · exact .inl set
  · exact .inl (frame.ill set)
  · exact .inr ⟨level, rest, envEq⟩

/-- Settles O58: neither an act nor the reset action writes a parameter. -/
theorem noStepWritesAParameter : Obligations.NoStepWritesAParameter := by
  unfold Obligations.NoStepWritesAParameter
  intro s t h
  rcases step_frame h with ⟨-, rfl⟩ | ⟨_, _, -, frame | ⟨_, -, rfl⟩⟩
  · rfl
  · exact frame.cfg
  · simp

/-! What is emitted. -/

theorem OutIsText.of_out_eq {s t : State} (h : OutIsText s) (outEq : t.out = s.out) : OutIsText t := by
  unfold OutIsText
  rwa [outEq]

/-- What a buffer decodes to is a character of the table, so a letter or a digit (R131, R134). -/
theorem flushEvents_text {s : State} (ht : codeTableOk s.cfg.codeTable = true) (k : Chan) :
    ∀ e ∈ flushEvents s k, e.char ∈ alphabet := by
  unfold flushEvents
  cases decoded : decodeCode s.cfg.codeTable (bufferCode (s.ch k)) with
  | none => simp
  | some c =>
    obtain ⟨chars, -⟩ := (codeTableOk_iff s.cfg.codeTable).1 ht
    simpa using chars ▸ decodeCode_mem decoded

theorem outIsText_flush {s : State} (ht : codeTableOk s.cfg.codeTable = true) (h : OutIsText s) (k : Chan) :
    OutIsText (flush k s) := by
  unfold OutIsText
  rw [(flush_onlyBuffers k s).out]
  intro e mem
  rcases List.mem_append.1 mem with old | new
  · exact h e old
  · exact flushEvents_text ht k e new

theorem outIsText_flushTriggers {s : State} (ht : codeTableOk s.cfg.codeTable = true) (h : OutIsText s) (now : Nat)
    (j : Chan) : OutIsText (flushTriggers now s j) := by
  rcases flushTriggers_cases now s j with ⟨-, due⟩ | ⟨-, notDue⟩
  · rw [due]; exact outIsText_flush ht h j
  · rw [notDue]; exact h

theorem outIsText_flushAll {s : State} (ht : codeTableOk s.cfg.codeTable = true) (h : OutIsText s) (now : Nat) :
    OutIsText (flushAll now s) := by
  have first := outIsText_flushTriggers ht h now .c0
  cases hd : s.cfg.dualSource
  · rw [flushAll_of_single hd]; exact first
  · obtain ⟨_, frame, -⟩ := flushTriggers_onlyBuffers now s .c0
    rw [flushAll_of_dual hd]
    exact outIsText_flushTriggers (by rwa [frame.cfg]) first now .c1

theorem outIsText_append {s : State} (ht : codeTableOk s.cfg.codeTable = true) (h : OutIsText s) (k : Chan)
    (sym : Symbol) : OutIsText (append k sym s) := by
  have pushed : OutIsText (s.setCh k (pushSymbol sym (s.ch k))) := h.of_out_eq (by simp)
  rcases append_cases k sym s with ⟨-, e⟩ | ⟨-, -, e⟩ | ⟨-, -, e⟩ <;> rw [e]
  · exact h
  · exact outIsText_flush (by simpa using ht) pushed k
  · exact pushed

theorem outIsText_poll {s : State} (ht : codeTableOk s.cfg.codeTable = true) (h : OutIsText s) (k : Chan)
    (x : Sample) : OutIsText (poll k x s) := by
  have edge : OutIsText (afterEdge k x s) := by
    rcases afterEdge_cases k x s with e | e | ⟨sym, e⟩ <;> rw [e]
    · exact h.of_out_eq (by simp)
    · exact h.of_out_eq (by simp)
    · exact outIsText_append (by simpa using ht) (h.of_out_eq (by simp)) k sym
  exact outIsText_flushAll (by rwa [afterEdge_cfg]) edge s.now

theorem outIsText_exec {s t : State} {i : Instr} (ht : codeTableOk s.cfg.codeTable = true) (h : OutIsText s)
    (performed : exec i s = .next t) : OutIsText t := by
  rcases exec_cases performed with rfl | rfl | ⟨k, x, -, -, rfl⟩ | ⟨c, -, -, rfl⟩ | ⟨c, w, -, -, rfl⟩ | ⟨-, rfl⟩
  · exact h
  · exact h.of_out_eq rfl
  · exact outIsText_poll ht h k x
  · exact h.of_out_eq rfl
  · exact h.of_out_eq rfl
  · exact h.of_out_eq rfl

/-- Settles O56: what a poll's flushes emit is in the table, whose characters are the letters and digits. -/
theorem onlyLettersAndDigitsAreEmitted : Obligations.OnlyLettersAndDigitsAreEmitted := by
  unfold Obligations.OnlyLettersAndDigitsAreEmitted
  intro s t text h
  obtain ⟨valid, ⟨-, rfl⟩ | ⟨e, rest, -, act⟩⟩ := step_cases h
  · exact text
  have ht := codeTableOk_of_valid valid
  rcases act with rfl | ⟨w, -, rfl⟩ | ⟨w, i, -, -, -, -, performed⟩ | ⟨-, rfl⟩ | ⟨-, -, ticked⟩ | ⟨level, -, rfl⟩
  · exact text.of_out_eq rfl
  · exact text.of_out_eq rfl
  · exact outIsText_exec (s := (s.beginStep rest).clearPort) ht (text.of_out_eq rfl) performed
  · exact text.of_out_eq rfl
  · exact outIsText_exec (s := s.beginStep rest) ht (text.of_out_eq rfl) ticked
  · exact text.of_out_eq rfl

end Sys2Proof.Machine

/-!
PROOFS. The status output (R51): its layout once, as a table of its bits, and each field read off it.
-/

namespace Sys2Proof.Machine

/-- The layout of R51. -/
theorem status_getLsbD (s : State) (i : Nat) :
    s.status.getLsbD i =
      if i = 0 then s.busy
      else if i = 1 then s.tx.out
      else if i < 4 then s.tx.phase.code.getLsbD (i - 2)
      else if i = 4 then s.ch0.acc
      else if i = 5 then s.cfg.dualSource && s.ch1.acc
      else if i < 9 then s.ch0.len.getLsbD (i - 6)
      else if i < 12 then (s.ifDual s.ch1.len).getLsbD (i - 9)
      else if i = 12 then s.cfg.dualSource && s.lastSrc.bit
      else if i = 13 then s.ill
      else false := by
  have oneBit (b : Bool) : (s.ifDual (BitVec.ofBool b)).getLsbD 0 = (s.cfg.dualSource && b) := by
    cases hd : s.cfg.dualSource <;> simp [State.ifDual, hd]
  by_cases hi : i < 16
  · unfold State.status
    rw [BitVec.getLsbD_append]
    simp only [BitVec.getLsbD_append]
    interval_cases i <;> simp [-BitVec.getLsbD_eq_getElem, oneBit]
  · rw [BitVec.getLsbD_of_ge _ _ (Nat.le_of_not_lt hi)]
    simp (disch := omega) only [if_neg]

/-- A slice of `STATUS` is the field whose bits the layout has there. -/
theorem status_extractLsb' {s : State} {start width : Nat} {field : BitVec width}
    (bits : ∀ i, i < width → s.status.getLsbD (start + i) = field.getLsbD i) :
    s.status.extractLsb' start width = field :=
  BitVec.eq_of_getLsbD_eq fun i hi => by rw [BitVec.getLsbD_extractLsb', bits i hi]; simp [hi]

theorem status_txPhase (s : State) : s.status.extractLsb' 2 2 = s.tx.phase.code :=
  status_extractLsb' fun i hi => by rw [status_getLsbD]; interval_cases i <;> rfl

theorem status_len0 (s : State) : s.status.extractLsb' 6 3 = s.ch0.len :=
  status_extractLsb' fun i hi => by rw [status_getLsbD]; interval_cases i <;> rfl

theorem status_len1 (s : State) : s.status.extractLsb' 9 3 = s.ifDual s.ch1.len :=
  status_extractLsb' fun i hi => by rw [status_getLsbD]; interval_cases i <;> rfl

theorem status_unused (s : State) : s.status.extractLsb' 14 2 = 0 :=
  status_extractLsb' fun i hi => by rw [status_getLsbD]; interval_cases i <;> rfl

theorem status_resetOf (c : Config) : (State.resetOf c).status = 0 := by
  cases dual : c.dualSource <;>
    simp [State.status, State.resetOf, Channel.reset, Transmitter.reset, State.ifDual, State.busy, TxPhase.code,
      Chan.bit, dual]

/-- Settles O60: each field lies where the layout has it, and the outputs are the registers themselves. -/
theorem theStatusOutput : Obligations.TheStatusOutput := by
  unfold Obligations.TheStatusOutput
  refine ⟨fun s => ⟨?txBusy, status_getLsbD s 1, ?txPhase, status_getLsbD s 4, status_getLsbD s 5, status_len0 s,
    status_len1 s, ?lastSrc, status_getLsbD s 13, status_unused s, rfl, rfl, rfl⟩, status_resetOf⟩
  case txBusy => rw [status_getLsbD]; simp [State.busy]
  case txPhase => rw [status_txPhase]; cases s.tx.phase <;> rfl
  case lastSrc => rw [status_getLsbD]; cases s.lastSrc <;> simp [Chan.bit]

end Sys2Proof.Machine

/-!
PROOFS. No rule depends on `PLATFORM_MAP` or `POLL_PERIOD_MS` (R85, R266): replacing the two parameters leaves every
reading of a state as it was, and commutes with every operation on it, up to the step.
-/

namespace Sys2Proof.Machine

/-- The state with other values of the platform's and the host's parameters (R85, R266). -/
def State.withPlatform (p : Option PlatformMap) (r : Option Nat) (s : State) : State :=
  { s with cfg := { s.cfg with platformMap := p, pollPeriodMs := r } }

/-- The outcome with its next state, if it has one, changed by `f`. -/
def mapNext (f : State → State) : Host.Outcome State Fault Refusal → Host.Outcome State Fault Refusal
  | .next s => .next (f s)
  | .fault e => .fault e
  | .refused e => .refused e

@[simp] theorem mapNext_next (f : State → State) (s : State) : mapNext f (.next s) = .next (f s) := rfl

@[simp] theorem mapNext_refused (f : State → State) (e : Refusal) : mapNext f (.refused e) = .refused e := rfl

section
variable (p : Option PlatformMap) (r : Option Nat)

/-! What is read of a state. -/

@[simp] theorem withPlatform_ch (s : State) (k : Chan) : (s.withPlatform p r).ch k = s.ch k := by cases k <;> rfl

@[simp] theorem withPlatform_now (s : State) : (s.withPlatform p r).now = s.now := rfl

@[simp] theorem withPlatform_rst (s : State) : (s.withPlatform p r).rst = s.rst := rfl

@[simp] theorem withPlatform_port (s : State) : (s.withPlatform p r).port = s.port := rfl

@[simp] theorem withPlatform_env (s : State) : (s.withPlatform p r).env = s.env := rfl

@[simp] theorem withPlatform_busy (s : State) : (s.withPlatform p r).busy = s.busy := rfl

@[simp] theorem withPlatform_codeTable (s : State) : (s.withPlatform p r).cfg.codeTable = s.cfg.codeTable := rfl

@[simp] theorem withPlatform_dualSource (s : State) : (s.withPlatform p r).cfg.dualSource = s.cfg.dualSource := rfl

@[simp] theorem withPlatform_valid (s : State) : (s.withPlatform p r).cfg.valid = s.cfg.valid := rfl

@[simp] theorem wf_withPlatform (i : Instr) (s : State) : i.wf (s.withPlatform p r).cfg = i.wf s.cfg := by
  cases i <;> rfl

@[simp] theorem decodeCmd_withPlatform (s : State) (w : Word) :
    decodeCmd (s.withPlatform p r).cfg w = decodeCmd s.cfg w := rfl

@[simp] theorem acceptEdge_withPlatform (s : State) (now : Nat) (x : Sample) (c : Channel) :
    acceptEdge (s.withPlatform p r).cfg now x c = acceptEdge s.cfg now x c := rfl

@[simp] theorem full_withPlatform (s : State) (c : Channel) : full (s.withPlatform p r).cfg c = full s.cfg c := rfl

@[simp] theorem flushDue_withPlatform (now : Nat) (j : Chan) (s : State) :
    flushDue now j (s.withPlatform p r) = flushDue now j s := by
  unfold flushDue
  rw [withPlatform_ch]; rfl

/-! The named updates. -/

@[simp] theorem setCh_withPlatform (s : State) (k : Chan) (c : Channel) :
    (s.withPlatform p r).setCh k c = (s.setCh k c).withPlatform p r := by cases k <;> rfl

@[simp] theorem setLastSrc_withPlatform (s : State) (k : Chan) :
    (s.withPlatform p r).setLastSrc k = (s.setLastSrc k).withPlatform p r := by
  simp only [State.setLastSrc, apply_ite (State.withPlatform p r)]; rfl

/-! A poll, stage by stage. -/

theorem resolve_withPlatform (k : Chan) (s : State) :
    resolve k (s.withPlatform p r) = (resolve k s).withPlatform p r := by
  unfold resolve
  rw [withPlatform_ch, withPlatform_codeTable]
  cases decodeCode s.cfg.codeTable (bufferCode (s.ch k)) <;> rfl

@[simp] theorem flush_withPlatform (k : Chan) (s : State) :
    flush k (s.withPlatform p r) = (flush k s).withPlatform p r := by
  simp [flush, resolve_withPlatform]

@[simp] theorem append_withPlatform (k : Chan) (sym : Symbol) (s : State) :
    append k sym (s.withPlatform p r) = (append k sym s).withPlatform p r := by
  simp [append, flushIfFull, apply_ite (State.withPlatform p r)]

theorem handleEdge_withPlatform (k : Chan) (now : Nat) (e : Edge) (s : State) :
    handleEdge k now e (s.withPlatform p r) = (handleEdge k now e s).withPlatform p r := by
  cases e with
  | none => rfl
  | rise => simp [handleEdge, pulseStart]
  | fall => simp [handleEdge, pulseEnd]; rfl

theorem afterEdge_withPlatform (k : Chan) (x : Sample) (s : State) :
    afterEdge k x (s.withPlatform p r) = (afterEdge k x s).withPlatform p r := by
  simp [afterEdge, handleEdge_withPlatform]

@[simp] theorem flushTriggers_withPlatform (now : Nat) (s : State) (j : Chan) :
    flushTriggers now (s.withPlatform p r) j = (flushTriggers now s j).withPlatform p r := by
  simp [flushTriggers, apply_ite (State.withPlatform p r)]

theorem flushAll_withPlatform (now : Nat) (s : State) :
    flushAll now (s.withPlatform p r) = (flushAll now s).withPlatform p r := by
  cases dual : s.cfg.dualSource
  · rw [flushAll_of_single dual, flushAll_of_single (by simpa using dual), flushTriggers_withPlatform]
  · rw [flushAll_of_dual dual, flushAll_of_dual (by simpa using dual), flushTriggers_withPlatform,
      flushTriggers_withPlatform]

theorem poll_withPlatform (k : Chan) (x : Sample) (s : State) :
    poll k x (s.withPlatform p r) = (poll k x s).withPlatform p r := by
  rw [poll_eq, poll_eq, afterEdge_withPlatform, flushAll_withPlatform, withPlatform_now]

/-! An instruction, and an act of the environment. -/

theorem whenReady_withPlatform {k : State → State} (s : State)
    (commutes : k (s.withPlatform p r) = (k s).withPlatform p r) :
    whenReady (s.withPlatform p r) k = mapNext (State.withPlatform p r) (whenReady s k) := by
  cases busy : s.busy
  · rw [whenReady_of_idle busy, whenReady_of_idle (by simpa using busy), commutes]; rfl
  · rw [whenReady_of_busy busy, whenReady_of_busy (by simpa using busy)]; rfl

theorem exec_withPlatform (i : Instr) (s : State) :
    exec i (s.withPlatform p r) = mapNext (State.withPlatform p r) (exec i s) := by
  cases i with
  | nop =>
    simp only [exec, execNop]
    exact whenReady_withPlatform p r s rfl
  | rxs k x =>
    simp only [exec, execRxs]
    refine whenReady_withPlatform p r s ?_
    rw [wf_withPlatform, apply_ite (State.withPlatform p r), poll_withPlatform]; rfl
  | txc c =>
    simp only [exec, execTxc]
    refine whenReady_withPlatform p r s ?_
    rw [withPlatform_codeTable]
    cases encodeChar s.cfg.codeTable c <;> rfl
  | tick => rfl

theorem performWord_withPlatform (w : Word) (s : State) :
    performWord w (s.withPlatform p r) = mapNext (State.withPlatform p r) (performWord w s) := by
  unfold performWord
  rw [decodeCmd_withPlatform]
  cases decodeCmd s.cfg w with
  | ok i => exact exec_withPlatform p r i s
  | error e => rfl

theorem presentWord_withPlatform (w : Word) (s : State) :
    presentWord w (s.withPlatform p r) = mapNext (State.withPlatform p r) (presentWord w s) := by
  unfold presentWord
  rw [withPlatform_rst, withPlatform_port, apply_ite (mapNext (State.withPlatform p r))]
  cases s.port with
  | none => rfl
  | some v => simp [apply_ite (mapNext (State.withPlatform p r))]

theorem hostStep_withPlatform (s : State) :
    hostStep (s.withPlatform p r) = mapNext (State.withPlatform p r) (hostStep s) := by
  unfold hostStep
  rw [withPlatform_rst, withPlatform_port, withPlatform_busy, apply_ite (mapNext (State.withPlatform p r))]
  cases s.port with
  | none => rfl
  | some w =>
    have performed := performWord_withPlatform p r w s.clearPort
    simp only [apply_ite (mapNext (State.withPlatform p r)), ← performed]; rfl

theorem envStep_withPlatform (e : EnvStep) (s : State) :
    envStep e (s.withPlatform p r) = mapNext (State.withPlatform p r) (envStep e s) := by
  cases e with
  | present w => exact presentWord_withPlatform p r w s
  | host => exact hostStep_withPlatform p r s
  | clock =>
    simp only [envStep, clockStep, apply_ite (mapNext (State.withPlatform p r)), ← exec_withPlatform]; rfl
  | reset level => simp only [envStep, resetStep, apply_ite (mapNext (State.withPlatform p r))]; rfl

/-- A step commutes with the replacement, a refused one being refused alike. -/
theorem step_withPlatform (s : State) :
    step (s.withPlatform p r) = mapNext (State.withPlatform p r) (step s) := by
  unfold step blockStep
  rw [withPlatform_valid, withPlatform_env, apply_ite (mapNext (State.withPlatform p r)), mapNext_refused]
  cases s.env with
  | nil => rfl
  | cons e rest => rw [← envStep_withPlatform]; rfl

end

/-- Settles O59: the step commutes with replacing the two parameters. -/
theorem noRuleDependsOnThePlatform : Obligations.NoRuleDependsOnThePlatform := by
  unfold Obligations.NoRuleDependsOnThePlatform
  intro s t p r h
  have commutes := step_withPlatform p r s
  rwa [h] at commutes

end Sys2Proof.Machine

/-!
PROOFS. The decoder and the encoder are inverse to each other (R101 to R107): the fields of an encoded word, the word
made of its fields, and the decoder's answer once for each value of `OP`. The illegal words (R108) are read off the same
equations.
-/

namespace Sys2Proof

/-! The fields of the encoder's words. -/

@[simp] theorem opField_rxsWord (k : Chan) (x : Sample) : opField (rxsWord k x) = 0b001#3 := by
  obtain ⟨w, encoded, op⟩ := Laws.OpField.rxs k x
  cases encoded
  exact op

@[simp] theorem opField_txcWord (c : Byte) : opField (txcWord c) = 0b010#3 := by
  obtain ⟨w, encoded, op⟩ := Laws.OpField.txc c
  cases encoded
  exact op

@[simp] theorem srcField_rxsWord (k : Chan) (x : Sample) : srcField (rxsWord k x) = k := by
  have bit12 : (rxsWord k x).getLsbD 12 = (0b001#3 ++ BitVec.ofBool k.bit).getLsbD 0 := BitVec.getLsbD_append
  rw [srcField, bit12]
  cases k <;> rfl

@[simp] theorem sampleField_rxsWord (k : Chan) (x : Sample) : sampleField (rxsWord k x) = x := by
  have xLt := x.isLt
  apply BitVec.eq_of_toNat_eq
  rw [sampleField_toNat, rxsWord_toNat]
  split <;> omega

@[simp] theorem txcZeros_txcWord (c : Byte) : txcZeros (txcWord c) = 0#5 := by
  have cLt := c.isLt
  apply BitVec.eq_of_toNat_eq
  rw [txcZeros_toNat, txcWord_toNat, BitVec.toNat_ofNat]
  omega

@[simp] theorem charField_txcWord (c : Byte) : charField (txcWord c) = c := by
  have cLt := c.isLt
  apply BitVec.eq_of_toNat_eq
  rw [charField_toNat, txcWord_toNat]
  omega

/-! `OP` and the zeros of a TXC word as numbers. -/

theorem opField_eq_iff (w : Word) (op : BitVec 3) : opField w = op ↔ w.toNat / 8192 = op.toNat := by
  rw [← BitVec.toNat_inj, opField_toNat]

theorem txcZeros_eq_zero_iff (w : Word) : txcZeros w = 0#5 ↔ w.toNat / 256 % 32 = 0 := by
  rw [← BitVec.toNat_inj, txcZeros_toNat, BitVec.toNat_ofNat, Nat.zero_mod]

theorem opField_cases (w : Word) :
    opField w = 0b000#3 ∨ opField w = 0b001#3 ∨ opField w = 0b010#3 ∨ 3 ≤ (opField w).toNat := by
  simp only [opField_eq_iff, opField_toNat, BitVec.toNat_ofNat]
  omega

/-! A word is made of its fields. -/

theorem rxsWord_fields {w : Word} (op : opField w = 0b001#3) : rxsWord (srcField w) (sampleField w) = w := by
  have wLt := w.isLt
  rw [opField_eq_iff, BitVec.toNat_ofNat] at op
  apply BitVec.eq_of_toNat_eq
  rw [rxsWord_toNat, sampleField_toNat]
  simp only [srcField_eq_c1_iff]
  split <;> omega

theorem txcWord_fields {w : Word} (op : opField w = 0b010#3) (zeros : txcZeros w = 0#5) :
    txcWord (charField w) = w := by
  rw [opField_eq_iff, BitVec.toNat_ofNat] at op
  rw [txcZeros_eq_zero_iff] at zeros
  apply BitVec.eq_of_toNat_eq
  rw [txcWord_toNat, charField_toNat]
  omega

/-! Which operands a configuration has (R10, R103). -/

theorem hasChannel_eq_false_iff (c : Config) (k : Chan) :
    c.hasChannel k = false ↔ k = .c1 ∧ c.dualSource = false := by
  cases k <;> simp [Config.hasChannel]

theorem sampleOk_iff (c : Config) (x : Sample) :
    c.sampleOk x = true ↔ (c.inputKind = .digital → x.extractLsb' 1 11 = 0#11) := by
  unfold Config.sampleOk
  cases c.inputKind <;> simp

theorem rxs_wf_iff (c : Config) (k : Chan) (x : Sample) :
    (Instr.rxs k x).wf c = true ↔
      c.hasChannel k = true ∧ (c.inputKind = .digital → x.extractLsb' 1 11 = 0#11) := by
  rw [Instr.wf, Bool.and_eq_true, sampleOk_iff]

/-! The decoder's answer for each value of `OP` (R107). -/

theorem decodeCmd_of_nopOp (c : Config) {w : Word} (op : opField w = 0b000#3) :
    decodeCmd c w = if w = 0x0000#16 then .ok .nop else .error .nopTail := by
  simp [decodeCmd, op]

/-- A word whose `OP` is not 000 is not the word of NOP. -/
theorem ne_nopWord {w : Word} (op : opField w ≠ 0b000#3) : w ≠ 0x0000#16 := by
  rintro rfl
  exact op rfl

theorem decodeCmd_of_rxsOp (c : Config) {w : Word} (op : opField w = 0b001#3) :
    decodeCmd c w = decodeRxs c w := by
  simp [decodeCmd, op, ne_nopWord (w := w)]

theorem decodeCmd_of_txcOp (c : Config) {w : Word} (op : opField w = 0b010#3) :
    decodeCmd c w = if txcZeros w = 0#5 then .ok (.txc (charField w)) else .error .txcTail := by
  simp [decodeCmd, op, ne_nopWord (w := w)]

theorem decodeCmd_of_reservedOp (c : Config) {w : Word} (op : 3 ≤ (opField w).toNat) :
    decodeCmd c w = .error .reservedOp := by
  have other (v : BitVec 3) (small : v.toNat < 3) : opField w ≠ v := by
    rintro rfl
    omega
  simp [decodeCmd, ne_nopWord (other 0 (by decide)), other]

/-- An RXS word decodes to its operands where the configuration has them (R103). -/
theorem decodeRxs_eq_ok_iff (c : Config) (w : Word) (i : Instr) :
    decodeRxs c w = .ok i ↔
      .rxs (srcField w) (sampleField w) = i ∧ (Instr.rxs (srcField w) (sampleField w)).wf c = true := by
  unfold decodeRxs
  split_ifs <;> simp [Instr.wf, *]

/-- The decoder inverts the encoder on the instructions the configuration accepts. -/
theorem decode_encode {c : Config} {i : Instr} (wf : i.wf c = true) : decode c (encode i) = .ok i := by
  cases i with
  | nop => exact decodeCmd_of_nopOp c (w := 0x0000#16) rfl
  | rxs k x =>
    have operands := decodeRxs_eq_ok_iff c (rxsWord k x) (.rxs k x)
    exact (decodeCmd_of_rxsOp c (opField_rxsWord k x)).trans (operands.2 (by simpa using wf))
  | txc ch => exact (decodeCmd_of_txcOp c (opField_txcWord ch)).trans (by simp)
  | tick => rfl

theorem encode_of_decodeCmd {c : Config} {w : Word} {i : Instr} (decoded : decodeCmd c w = .ok i) :
    encode i = .command w ∧ i.wf c = true := by
  rcases opField_cases w with op | op | op | op
  · rw [decodeCmd_of_nopOp c op] at decoded
    split at decoded <;> cases decoded
    subst w
    exact ⟨rfl, rfl⟩
  · rw [decodeCmd_of_rxsOp c op, decodeRxs_eq_ok_iff] at decoded
    obtain ⟨rfl, wf⟩ := decoded
    exact ⟨congrArg PortInput.command (rxsWord_fields op), wf⟩
  · rw [decodeCmd_of_txcOp c op] at decoded
    split at decoded <;> cases decoded
    exact ⟨congrArg PortInput.command (txcWord_fields op ‹_›), rfl⟩
  · rw [decodeCmd_of_reservedOp c op] at decoded
    cases decoded

theorem decodeCmd_eq_ok_iff (c : Config) (w : Word) (i : Instr) :
    decodeCmd c w = .ok i ↔ encode i = .command w ∧ i.wf c = true := by
  refine ⟨encode_of_decodeCmd, fun ⟨encoded, wf⟩ => ?_⟩
  have decoded := decode_encode wf
  rwa [encoded] at decoded

/-- An encoding decodes exactly where its instruction is well-formed. -/
theorem decodeCmd_eq_ok_iff_wf {c : Config} {w : Word} {i : Instr} (encoded : encode i = .command w) :
    decodeCmd c w = .ok i ↔ i.wf c = true := by
  rw [decodeCmd_eq_ok_iff, and_iff_right encoded]

/-- Settles O1: each operation's word has the fields its decoding line asks for. -/
theorem decodingAnEncodingGivesTheInstruction : Obligations.DecodingAnEncodingGivesTheInstruction := by
  unfold Obligations.DecodingAnEncodingGivesTheInstruction
  exact fun _ _ => decode_encode

/-- Settles O2: the line of R107 that accepts a word fixes the word's `OP`, and the word is made of its fields. -/
theorem aDecodedWordIsTheEncoding : Obligations.ADecodedWordIsTheEncoding := by
  unfold Obligations.ADecodedWordIsTheEncoding
  exact fun _ _ _ => encode_of_decodeCmd

/-! The illegal words (R108). -/

theorem decodeCmd_rejects_iff (c : Config) (w : Word) :
    (∃ e, decodeCmd c w = .error e) ↔
      (opField w = 0b000#3 ∧ w ≠ 0x0000#16)
      ∨ (opField w = 0b001#3 ∧ c.hasChannel (srcField w) = false)
      ∨ (opField w = 0b001#3 ∧ c.sampleOk (sampleField w) = false)
      ∨ (opField w = 0b010#3 ∧ txcZeros w ≠ 0#5)
      ∨ 3 ≤ (opField w).toNat := by
  rcases opField_cases w with op | op | op | op
  · rw [decodeCmd_of_nopOp c op, op]
    split <;> simp [*]
  · rw [decodeCmd_of_rxsOp c op, decodeRxs]
    split_ifs <;> simp [*]
  · rw [decodeCmd_of_txcOp c op]
    split <;> simp [*]
  · rw [decodeCmd_of_reservedOp c op]
    simp [op]

theorem nopTail_iff_range (w : Word) :
    opField w = 0b000#3 ∧ w ≠ 0x0000#16 ↔ 0x0001#16 ≤ w ∧ w ≤ 0x1FFF#16 := by
  rw [opField_eq_iff, ne_eq, ← BitVec.toNat_inj, BitVec.le_def, BitVec.le_def]
  simp only [BitVec.toNat_ofNat]
  omega

theorem noSuchSource_iff_range (c : Config) (w : Word) :
    opField w = 0b001#3 ∧ c.hasChannel (srcField w) = false ↔
      0x3000#16 ≤ w ∧ w ≤ 0x3FFF#16 ∧ c.dualSource = false := by
  rw [hasChannel_eq_false_iff, ← and_assoc, ← and_assoc]
  refine and_congr_left fun _ => ?_
  rw [opField_eq_iff, srcField_eq_c1_iff, BitVec.le_def, BitVec.le_def]
  simp only [BitVec.toNat_ofNat]
  omega

/-- `SAMPLE`'s bits [11:1] are the word's. -/
theorem sampleField_extractLsb' (w : Word) : (sampleField w).extractLsb' 1 11 = w.extractLsb' 1 11 := by
  apply BitVec.eq_of_getLsbD_eq
  intro i hi
  simp [sampleField, hi]

theorem notALevel_iff_bits (c : Config) (w : Word) :
    opField w = 0b001#3 ∧ c.sampleOk (sampleField w) = false ↔
      c.inputKind = .digital ∧ w.extractLsb' 13 3 = 0b001#3 ∧ w.extractLsb' 1 11 ≠ 0#11 := by
  rw [← Bool.not_eq_true, sampleOk_iff, sampleField_extractLsb', Classical.not_imp, and_left_comm, opField]

theorem txcTail_iff_range (w : Word) :
    opField w = 0b010#3 ∧ txcZeros w ≠ 0#5 ↔ 0x4100#16 ≤ w ∧ w ≤ 0x5FFF#16 := by
  rw [opField_eq_iff, ne_eq, txcZeros_eq_zero_iff, BitVec.le_def, BitVec.le_def]
  simp only [BitVec.toNat_ofNat]
  omega

theorem reservedOp_iff_range (w : Word) : 3 ≤ (opField w).toNat ↔ 0x6000#16 ≤ w := by
  rw [opField_toNat, BitVec.le_def, BitVec.toNat_ofNat]
  omega

end Sys2Proof

namespace Sys2Proof.Machine

theorem performWord_of_illegal {s : State} {w : Word} {e : DecodeError} (illegal : decodeCmd s.cfg w = .error e) :
    performWord w s = .next s.raiseIll := by
  simp [performWord, illegal]

/-- Settles O3: each way the decoder rejects a word is one of the five sets of R108. -/
theorem theIllegalWordsAreTheListedOnes : Obligations.TheIllegalWordsAreTheListedOnes := by
  unfold Obligations.TheIllegalWordsAreTheListedOnes
  refine ⟨fun cfg w => ?_, fun _ _ _ => performWord_of_illegal⟩
  rw [decodeCmd_rejects_iff, nopTail_iff_range, noSuchSource_iff_range, notALevel_iff_bits, txcTail_iff_range,
    reservedOp_iff_range]

/-- Settles O5: which configurations decode an encoding is their own `wf` (R103), and 0x6000 has a reserved `OP`. -/
theorem theWorkedEncodings : Obligations.TheWorkedEncodings := by
  unfold Obligations.TheWorkedEncodings
  refine ⟨rfl, rfl, rfl, rfl, rfl, rfl, rfl, rfl, fun cfg => ⟨?secondSource, ?level, ?fullScale,
    (decodeCmd_eq_ok_iff_wf rfl).2 rfl, (decodeCmd_eq_ok_iff_wf rfl).2 rfl, (decodeCmd_eq_ok_iff_wf rfl).2 rfl,
    (decodeCmd_eq_ok_iff_wf rfl).2 rfl, (decodeCmd_eq_ok_iff_wf rfl).2 rfl, ?illegal⟩⟩
  case secondSource | level =>
    rw [decodeCmd_eq_ok_iff_wf rfl, rxs_wf_iff]
    simp [Config.hasChannel]
  case fullScale =>
    rw [decodeCmd_eq_ok_iff_wf rfl, rxs_wf_iff]
    cases cfg.inputKind <;> simp [Config.hasChannel]
  case illegal => exact ⟨_, decodeCmd_of_reservedOp cfg (by decide)⟩

/-! Steps of the environment. -/

/-- Under a valid configuration a step performs the environment's next act. -/
theorem step_of_running {s : State} {e : EnvStep} {rest : List EnvStep} (running : Running s e rest) :
    step s = envStep e (s.beginStep rest) := by
  obtain ⟨valid, -, next⟩ := running
  simp [step, blockStep, valid, next]

theorem clockStep_of_released {s : State} (released : s.rst = false) : clockStep s = exec .tick s := by
  simp [clockStep, released]

/-- Settles O7: out of reset the clock's act is TICK, and asks neither the transmitter nor the command port. -/
theorem aClockStepRunsTick : Obligations.AClockStepRunsTick := by
  unfold Obligations.AClockStepRunsTick
  intro s rest running
  have ⟨_, released, _⟩ := running
  calc step s = clockStep (s.beginStep rest) := step_of_running running
    _ = exec .tick (s.beginStep rest) := clockStep_of_released released

end Sys2Proof.Machine

/-!
PROOFS. The lookups of a table that satisfies R131 (R133, R134): which bytes have a code, that each code leads back to
its own character (R136), and that a code of six symbols leads to none (R137).
-/

namespace Sys2Proof.Machine

/-! The characters as numbers. -/

theorem normalise_of_mem_alphabet {c : Byte} (mem : c ∈ alphabet) : normalise c = c := by
  rw [mem_alphabet] at mem
  rw [← BitVec.toNat_inj, normalise_toNat, if_neg (by omega)]

theorem normalise_of_lowercase {c : Byte} (lower : 0x61#8 ≤ c ∧ c ≤ 0x7A#8) : normalise c = c - 0x20#8 :=
  if_pos lower

/-- The bytes with a code are the letters of either case and the digits (R133). -/
theorem normalise_mem_alphabet_iff (c : Byte) :
    normalise c ∈ alphabet ↔
      (0x41 ≤ c.toNat ∧ c.toNat ≤ 0x5A) ∨ (0x61 ≤ c.toNat ∧ c.toNat ≤ 0x7A) ∨ (0x30 ≤ c.toNat ∧ c.toNat ≤ 0x39) := by
  rw [mem_alphabet, normalise_toNat]
  split <;> omega

/-! The lookups. -/

/-- What `encode` answers is the code of an entry with the normalised character (R133). -/
theorem exists_entry_of_encodeChar {t : List CodeEntry} {c : Byte} {w : CodeWord} (encoded : encodeChar t c = some w) :
    ∃ e ∈ t, e.char = normalise c ∧ e.code = w := by
  obtain ⟨e, found, code⟩ := Option.map_eq_some_iff.1 encoded
  exact ⟨e, List.mem_of_find?_eq_some found, by simpa using List.find?_some found, code⟩

/-- `decode` answers the character of any entry with the code, where the codes differ (R131 (iii), R134). -/
theorem decodeCode_code {t : List CodeEntry} (nodup : (t.map CodeEntry.code).Nodup) {e : CodeEntry} (mem : e ∈ t)
    (short : e.code.len.toNat ≤ 5) : decodeCode t e.code = some e.char := by
  cases found : t.find? (fun a => a.code == e.code && decide (e.code.len.toNat ≤ 5)) with
  | none =>
    have noMatch := List.find?_eq_none.1 found e mem
    simp [short] at noMatch
  | some a =>
    have sameCode : a.code = e.code := by
      have isMatch := List.find?_some found
      simp only [Bool.and_eq_true, beq_iff_eq] at isMatch
      exact isMatch.1
    have sameEntry : a = e := List.inj_on_of_nodup_map nodup (List.mem_of_find?_eq_some found) mem sameCode
    rw [decodeCode, found, sameEntry, Option.map_some]

/-- A byte with a code comes back as its normalised character (R136). -/
theorem decodeCode_encodeChar {t : List CodeEntry} (ht : codeTableOk t = true) {c : Byte}
    {d : Byte} (normal : normalise c = d) (mem : d ∈ alphabet) :
    ∃ w, encodeChar t c = some w ∧ decodeCode t w = some d := by
  subst normal
  obtain ⟨chars, -, codes, nodup⟩ := (codeTableOk_iff_entries t).1 ht
  have mapped : encodeChar t c ≠ none := fun unmapped => (encodeChar_eq_none_iff chars c).1 unmapped mem
  obtain ⟨w, encoded⟩ := Option.ne_none_iff_exists'.1 mapped
  obtain ⟨e, inTable, char, rfl⟩ := exists_entry_of_encodeChar encoded
  obtain ⟨-, short, -⟩ := codes e inTable
  exact ⟨e.code, encoded, char ▸ decodeCode_code nodup inTable short⟩

/-- No entry matches a code of more than five symbols (R134). -/
theorem decodeCode_of_long (t : List CodeEntry) {w : CodeWord} (long : 5 < w.len.toNat) : decodeCode t w = none := by
  simp [decodeCode, long]

/-- A flush of a buffer without a character (R203). -/
theorem flush_of_noMatch {s : State} {k : Chan} (noMatch : decodeCode s.cfg.codeTable (bufferCode (s.ch k)) = none) :
    flush k s = s.countDecMiss.setCh k { s.ch k with len := 0, buf := 0 } := by
  simp [flush, resolve, noMatch]

/-- Settles O26: a byte's code leads back to the one entry it came from, because the codes differ. -/
theorem theCodeTableRoundTrips : Obligations.TheCodeTableRoundTrips := by
  unfold Obligations.TheCodeTableRoundTrips
  intro t ht
  refine ⟨fun c mem => ?upper, fun c low high => ?lower, fun i j distinct sameCode => ?unique⟩
  case upper => exact decodeCode_encodeChar ht (normalise_of_mem_alphabet mem) mem
  case lower =>
    have mem : normalise c ∈ alphabet := (normalise_mem_alphabet_iff c).2 (.inr (.inl ⟨low, high⟩))
    have normal := normalise_of_lowercase ⟨low, high⟩
    exact decodeCode_encodeChar ht normal (normal ▸ mem)
  case unique =>
    obtain ⟨-, -, -, nodup⟩ := (codeTableOk_iff_entries t).1 ht
    have sameEntry : t[i] = t[j] :=
      List.inj_on_of_nodup_map nodup (List.getElem_mem i.isLt) (List.getElem_mem j.isLt) sameCode
    exact distinct (Fin.ext ((nodup.of_map CodeEntry.code).getElem_inj_iff.1 sameEntry))

/-- Settles O27: the four ranges are what the letters of either case and the digits leave. -/
theorem theUnmappedBytes : Obligations.TheUnmappedBytes := by
  unfold Obligations.TheUnmappedBytes
  intro t c ht
  obtain ⟨chars, -⟩ := (codeTableOk_iff t).1 ht
  rw [encodeChar_eq_none_iff chars, normalise_mem_alphabet_iff]
  simp only [BitVec.le_def, BitVec.ofNat_eq_ofNat, BitVec.toNat_ofNat]
  omega

/-- Settles O28: a full buffer of capacity 6 holds six symbols, one more than any code. -/
theorem aFullBufferOfSixAlwaysMisses : Obligations.AFullBufferOfSixAlwaysMisses := by
  unfold Obligations.AFullBufferOfSixAlwaysMisses
  intro s k capacity isFull
  have six : (bufferCode (s.ch k)).len.toNat = 6 := ((full_iff s.cfg (s.ch k)).1 isFull).trans capacity
  have noMatch := decodeCode_of_long s.cfg.codeTable (w := bufferCode (s.ch k)) (by omega)
  exact ⟨noMatch, flush_of_noMatch noMatch⟩

end Sys2Proof.Machine

/-!
PROOFS. One poll with legal operands: what it answers (R150), and that its stages after conditioning leave the filter
windows alone.
-/

namespace Sys2Proof.Machine

/-- An idle block performs an RXS whose operands it has (R150, R263). -/
theorem exec_rxs_of_idle {s : State} {k : Chan} {x : Sample} (idle : s.busy = false)
    (wf : (Instr.rxs k x).wf s.cfg = true) : exec (.rxs k x) s = .next (poll k x s) := by
  simp [exec, execRxs, whenReady_of_idle idle, wf]

/-- A busy block holds an RXS (R238). -/
theorem exec_rxs_of_busy {s : State} (busy : s.busy = true) (k : Chan) (x : Sample) :
    exec (.rxs k x) s = .next s := by
  simp [exec, execRxs, whenReady_of_busy busy]

/-- An analog configuration has every sample of its channels (R103). -/
theorem rxs_wf_of_analog {cfg : Config} {k : Chan} (analog : cfg.inputKind = .analog)
    (hasChannel : cfg.hasChannel k = true) (x : Sample) : (Instr.rxs k x).wf cfg = true :=
  (rxs_wf_iff cfg k x).2 ⟨hasChannel, by simp [analog]⟩

/-- What an analog sample does to its channel's window and index (R151). -/
theorem condition_of_analog {cfg : Config} (analog : cfg.inputKind = .analog) (x : Sample) (c : Channel) :
    (condition cfg x c).1 = windowWrite cfg x c := by
  rw [condition_frame, if_pos analog]

/-- A digital level writes no register (R154). -/
theorem condition_of_digital {cfg : Config} (digital : cfg.inputKind = .digital) (x : Sample) (c : Channel) :
    condition cfg x c = (c, x.getLsbD 0) := by
  simp [condition, digital]

/-- The edge of a poll leaves the conditioned window and index alone (R150). -/
theorem afterEdge_window (k : Chan) (x : Sample) (s : State) :
    ((afterEdge k x s).ch k).win = (condition s.cfg x (s.ch k)).1.win ∧
    ((afterEdge k x s).ch k).widx = (condition s.cfg x (s.ch k)).1.widx := by
  rcases afterEdge_cases k x s with noEdge | rise | ⟨sym, fall⟩
  · simp [noEdge]
  · simp [rise, Channel.risen]
  · obtain ⟨_, frame, -⟩ := append_onlyBuffers k sym (s.setCh k ((condition s.cfg x (s.ch k)).1.fallen s.now))
    have edges := frame.edges k
    rw [fall, edges.win, edges.widx]
    simp [Channel.fallen]

/-- A poll's own window is the conditioned one (R151, R154). -/
theorem poll_window (k : Chan) (x : Sample) (s : State) :
    ((poll k x s).ch k).win = (condition s.cfg x (s.ch k)).1.win ∧
    ((poll k x s).ch k).widx = (condition s.cfg x (s.ch k)).1.widx := by
  have edges := (poll_frame k x s).edges k
  rw [edges.win, edges.widx]
  exact afterEdge_window k x s

/-- A poll leaves the other channel's window and index alone (R150). -/
theorem poll_window_other (k : Chan) (x : Sample) (s : State) :
    ((poll k x s).ch k.other).win = (s.ch k.other).win ∧ ((poll k x s).ch k.other).widx = (s.ch k.other).widx := by
  have edges := (poll_frame k x s).edges k.other
  rw [edges.win, edges.widx, afterEdge_ch_other]
  exact ⟨rfl, rfl⟩

/-- The index after a sample; a valid N is at most 15, so four bits hold it (R9, R33, R151). -/
theorem windowWrite_widx {cfg : Config} (valid : cfg.valid = true) (x : Sample) (c : Channel) :
    (windowWrite cfg x c).widx.toNat = (c.widx.toNat + 1) % cfg.filterSize := by
  obtain ⟨⟨oneLe, leFifteen⟩, -⟩ := (config_valid_iff cfg).1 valid
  have modLt := Nat.mod_lt (c.widx.toNat + 1) oneLe
  simp only [windowWrite, BitVec.toNat_ofNat]
  omega

/-- Settles O29: the window and index of a poll's channel are those of `windowWrite`. -/
theorem anAnalogPollWritesOneSlot : Obligations.AnAnalogPollWritesOneSlot := by
  unfold Obligations.AnAnalogPollWritesOneSlot
  intro s k x valid idle analog hasChannel
  obtain ⟨winEq, widxEq⟩ := poll_window k x s
  rw [condition_of_analog analog] at winEq widxEq
  exact ⟨poll k x s, slotSample s.cfg x, exec_rxs_of_idle idle (rxs_wf_of_analog analog hasChannel x),
    slotSample_of_fits, slotSample_lt s.cfg x, winEq, widxEq ▸ windowWrite_widx valid x (s.ch k),
    poll_window_other k x s⟩

/-- Settles O30: digital conditioning hands on the channel as it was. -/
theorem aDigitalPollBypassesTheWindow : Obligations.ADigitalPollBypassesTheWindow := by
  unfold Obligations.ADigitalPollBypassesTheWindow
  intro s k x idle digital wf
  have conditioned := condition_of_digital digital x (s.ch k)
  refine ⟨by rw [conditioned], poll k x s, exec_rxs_of_idle idle wf, fun j => ?_⟩
  rcases chan_eq_or_other j k with rfl | rfl
  · simpa only [conditioned] using poll_window j x s
  · exact poll_window_other k x s

end Sys2Proof.Machine

/-!
PROOFS. The filter window: its mean against the threshold and against its slots (R152, R153, R160), and what a channel's
window holds after several analog polls (R160, R161).
-/

namespace Sys2Proof.Machine

/-- Settles O31: a floor is strictly above the threshold exactly when it is at least one more. -/
theorem theRawStateOfAnAnalogPoll : Obligations.TheRawStateOfAnAnalogPoll := by
  unfold Obligations.TheRawStateOfAnAnalogPoll
  intro cfg x c analog oneLe
  refine ⟨slotSample cfg x, slotSample_of_fits, by rw [condition_of_analog analog]; rfl, ?_⟩
  simp only [condition, analog, classify, smooth]
  exact decide_eq_true_iff.trans (Nat.le_div_iff_mul_le oneLe)

/-- The exact sum lies between N times any bounds of the slots (R152). -/
theorem windowSum_bounds {win : List Sample} {lo hi : Nat} (bounds : ∀ v ∈ win, lo ≤ v.toNat ∧ v.toNat ≤ hi) :
    win.length * lo ≤ windowSum win ∧ windowSum win ≤ win.length * hi := by
  have lower := (win.map BitVec.toNat).card_nsmul_le_sum lo (by simpa using fun v mem => (bounds v mem).1)
  have upper := (win.map BitVec.toNat).sum_le_card_nsmul hi (by simpa using fun v mem => (bounds v mem).2)
  simpa [windowSum] using And.intro lower upper

/-- Settles O32: N slots between the bounds sum to between N times the bounds. -/
theorem theMeanStaysWithinTheWindow : Obligations.TheMeanStaysWithinTheWindow := by
  unfold Obligations.TheMeanStaysWithinTheWindow
  intro cfg win lo hi oneLe winLength bounds
  obtain ⟨lower, upper⟩ := windowSum_bounds bounds
  rw [winLength] at lower upper
  exact ⟨(Nat.le_div_iff_mul_le oneLe).2 (by rwa [Nat.mul_comm]), Nat.div_le_of_le_mul upper⟩

/-! Several analog polls of one channel. -/

/-- Channel `k` of an idle analog block, its index within its N slots: what its analog polls start from. -/
structure AnalogReady (s : State) (k : Chan) : Prop where
  valid : s.cfg.valid = true
  idle : s.busy = false
  analog : s.cfg.inputKind = .analog
  hasChannel : s.cfg.hasChannel k = true
  winLength : (s.ch k).win.length = s.cfg.filterSize
  widxBelowN : (s.ch k).widx.toNat < s.cfg.filterSize

/-- A poll writes the window its sample leaves (R151). -/
theorem AnalogReady.poll_window {s : State} {k : Chan} (ready : AnalogReady s k) (x : Sample) :
    ((poll k x s).ch k).win = (s.ch k).win.set (s.ch k).widx.toNat (slotSample s.cfg x) ∧
    ((poll k x s).ch k).widx.toNat = ((s.ch k).widx.toNat + 1) % s.cfg.filterSize := by
  obtain ⟨winEq, widxEq⟩ := Machine.poll_window k x s
  rw [condition_of_analog ready.analog] at winEq widxEq
  exact ⟨winEq, widxEq ▸ windowWrite_widx ready.valid x (s.ch k)⟩

theorem AnalogReady.exec_rxs {s : State} {k : Chan} (ready : AnalogReady s k) (x : Sample) :
    exec (.rxs k x) s = .next (poll k x s) :=
  exec_rxs_of_idle ready.idle (rxs_wf_of_analog ready.analog ready.hasChannel x)

theorem AnalogReady.after_poll {s : State} {k : Chan} (ready : AnalogReady s k) (x : Sample) :
    AnalogReady (poll k x s) k := by
  have frame := poll_frame k x s
  obtain ⟨winEq, widxEq⟩ := ready.poll_window x
  refine ⟨?_, ?_, ?_, ?_, ?_, ?_⟩
  · rw [frame.cfg]; exact ready.valid
  · rw [State.busy, frame.tx]; exact ready.idle
  · rw [frame.cfg]; exact ready.analog
  · rw [frame.cfg]; exact ready.hasChannel
  · rw [winEq, frame.cfg, List.length_set]; exact ready.winLength
  · rw [widxEq, frame.cfg]; exact Nat.mod_lt _ (Nat.zero_lt_of_lt ready.widxBelowN)

/-- Counted from the index a poll found, slot 0 holds its sample and every other slot what it held (R151). -/
theorem AnalogReady.poll_slot {s : State} {k : Chan} (ready : AnalogReady s k) (x : Sample) {i : Nat}
    (inWindow : i < s.cfg.filterSize) :
    ((poll k x s).ch k).win[((s.ch k).widx.toNat + i) % s.cfg.filterSize]? =
      if i = 0 then some (slotSample s.cfg x)
      else (s.ch k).win[((s.ch k).widx.toNat + i) % s.cfg.filterSize]? := by
  have below := ready.widxBelowN
  rw [(ready.poll_window x).1]
  split
  case isTrue first =>
    rw [first, Nat.add_zero, Nat.mod_eq_of_lt below, List.getElem?_set_self (by rw [ready.winLength]; exact below)]
  case isFalse later =>
    have elsewhere : (s.ch k).widx.toNat ≠ ((s.ch k).widx.toNat + i) % s.cfg.filterSize := by
      rcases Nat.lt_or_ge ((s.ch k).widx.toNat + i) s.cfg.filterSize with noWrap | wrap
      · rw [Nat.mod_eq_of_lt noWrap]; omega
      · rw [Nat.mod_eq_sub_mod wrap, Nat.mod_eq_of_lt (by omega)]; omega
    rw [List.getElem?_set_ne elsewhere]

/-- After at most N polls the slots, from the first poll's index on around, hold the samples in order and then what the
rest of the window held (R151, R160, R161). By induction on the samples: the first one's slot is, counted from the index
its poll leaves, the last of the window, which the N - 1 polls after it do not reach. -/
theorem AnalogReady.runInstrs_polls {k : Chan} (xs : List Sample) {s : State} (ready : AnalogReady s k)
    (fits : xs.length ≤ s.cfg.filterSize) :
    ∃ t, runInstrs (xs.map (Instr.rxs k)) s = .next t ∧ AnalogReady t k ∧ t.cfg = s.cfg ∧
      ∀ i, i < s.cfg.filterSize →
        (t.ch k).win[((s.ch k).widx.toNat + i) % s.cfg.filterSize]? =
          if i < xs.length then (xs.map (slotSample s.cfg))[i]?
          else (s.ch k).win[((s.ch k).widx.toNat + i) % s.cfg.filterSize]? := by
  induction xs generalizing s with
  | nil => exact ⟨s, rfl, ready, rfl, fun i _ => by simp⟩
  | cons x xs ih =>
    have cfgEq := (poll_frame k x s).cfg
    have below := ready.widxBelowN
    obtain ⟨-, widxEq⟩ := ready.poll_window x
    rw [List.length_cons] at fits
    obtain ⟨t, run, readyT, cfgT, slots⟩ := ih (ready.after_poll x) (by rw [cfgEq]; omega)
    rw [cfgEq] at cfgT slots
    refine ⟨t, by simpa only [List.map_cons, runInstrs, ready.exec_rxs] using run, readyT, cfgT,
      fun i inWindow => ?_⟩
    cases i with
    | zero =>
      have lastSlot : (((poll k x s).ch k).widx.toNat + (s.cfg.filterSize - 1)) % s.cfg.filterSize
          = ((s.ch k).widx.toNat + 0) % s.cfg.filterSize := by
        rw [widxEq, Nat.mod_add_mod, show (s.ch k).widx.toNat + 1 + (s.cfg.filterSize - 1)
          = (s.ch k).widx.toNat + 0 + s.cfg.filterSize by omega, Nat.add_mod_right]
      have slot := slots (s.cfg.filterSize - 1) (by omega)
      rw [lastSlot, if_neg (by omega), ready.poll_slot x inWindow] at slot
      simpa using slot
    | succ i =>
      have nextSlot : (((poll k x s).ch k).widx.toNat + i) % s.cfg.filterSize
          = ((s.ch k).widx.toNat + (i + 1)) % s.cfg.filterSize := by
        rw [widxEq, Nat.mod_add_mod, Nat.add_assoc, Nat.add_comm 1 i]
      have slot := slots i (by omega)
      rw [nextSlot, ready.poll_slot x inWindow] at slot
      simpa using slot

/-- Samples that fit their slots stand there as they are (R151). -/
theorem map_slotSample_of_fits {cfg : Config} {xs : List Sample} (fits : ∀ x ∈ xs, x.toNat < 2 ^ cfg.sampleW) :
    xs.map (slotSample cfg) = xs :=
  (List.map_congr_left fun x mem => slotSample_of_fits (fits x mem)).trans xs.map_id'

/-- Settles O33: N polls reach every slot. -/
theorem theWindowHoldsTheLastSamples : Obligations.TheWindowHoldsTheLastSamples := by
  unfold Obligations.TheWindowHoldsTheLastSamples
  intro s k xs inv idle analog hasChannel lengthEq
  have ready : AnalogReady s k :=
    ⟨inv.cfgValid, idle, analog, hasChannel, (inv.ch k).winLength, (inv.ch k).widxBelowN⟩
  obtain ⟨t, run, -, -, slots⟩ := ready.runInstrs_polls xs lengthEq.le
  have held : ∀ i, i < xs.length →
      (t.ch k).win[((s.ch k).widx.toNat + i) % s.cfg.filterSize]? = (xs.map (slotSample s.cfg))[i]? :=
    fun i inList => by rw [slots i (lengthEq ▸ inList), if_pos inList]
  exact ⟨t, run, held, fun fits i inList => by rw [held i inList, map_slotSample_of_fits fits]⟩

/-- After at most N polls of a channel in its reset state: the samples, then the zeros reset left (R161). -/
theorem AnalogReady.runInstrs_polls_of_reset {s : State} {k : Chan} {xs : List Sample} (ready : AnalogReady s k)
    (reset : s.ch k = Channel.reset s.cfg) (fits : xs.length ≤ s.cfg.filterSize) :
    ∃ t, runInstrs (xs.map (Instr.rxs k)) s = .next t ∧
      (t.ch k).win = xs.map (slotSample s.cfg) ++ List.replicate (s.cfg.filterSize - xs.length) 0#12 := by
  obtain ⟨t, run, readyT, cfgT, slots⟩ := ready.runInstrs_polls xs fits
  have winLength : (t.ch k).win.length = s.cfg.filterSize := cfgT ▸ readyT.winLength
  refine ⟨t, run, List.ext_getElem? fun i => ?_⟩
  rcases Nat.lt_or_ge i s.cfg.filterSize with inWindow | beyond
  · have slot := slots i inWindow
    rw [reset, show (Channel.reset s.cfg).widx.toNat + i = i from Nat.zero_add i, Nat.mod_eq_of_lt inWindow] at slot
    rw [slot]
    split
    case isTrue polled => rw [List.getElem?_append_left (by simpa using polled)]
    case isFalse notPolled =>
      have zeroLeft : i - xs.length < s.cfg.filterSize - xs.length := by omega
      rw [List.getElem?_append_right (by simpa using notPolled)]
      simp [Channel.reset, inWindow, zeroLeft]
  · rw [List.getElem?_eq_none (by omega), List.getElem?_eq_none (by simp; omega)]

/-- Settles O34: the zeros add nothing to the sum. -/
theorem theWarmUpMean : Obligations.TheWarmUpMean := by
  unfold Obligations.TheWarmUpMean
  intro s k xs valid idle analog hasChannel reset fits
  have inv := channelInv_reset valid
  have ready : AnalogReady s k :=
    ⟨valid, idle, analog, hasChannel, reset ▸ inv.winLength, reset ▸ inv.widxBelowN⟩
  obtain ⟨t, run, winEq⟩ := ready.runInstrs_polls_of_reset reset fits
  have mean : smooth s.cfg (t.ch k).win
      = ((xs.map (slotSample s.cfg)).map BitVec.toNat).sum / s.cfg.filterSize := by
    rw [smooth, windowSum, winEq]
    simp
  exact ⟨t, run, mean, fun slotsFit => by rw [mean, map_slotSample_of_fits slotsFit]⟩

end Sys2Proof.Machine

/-!
PROOFS. The edges of a poll: what an accepted edge and a dropped request leave in the channel (R156 to R159, R180,
R181), through the flush triggers that follow.
-/

namespace Sys2Proof.Machine

/-- A poll whose rising request passes both tests, before its flush triggers (R156 to R158, R180). -/
theorem afterEdge_of_rise {s : State} {k : Chan} {x : Sample} (high : (condition s.cfg x (s.ch k)).2 = true)
    (low : (s.ch k).acc = false) (debounced : s.cfg.debounceTime ≤ subT s.cfg.timeW s.now (s.ch k).tTrans)
    (peak : s.cfg.peakDetectionThreshold ≤ subT s.cfg.timeW s.now (s.ch k).tRise) :
    afterEdge k x s = (s.setCh k ((condition s.cfg x (s.ch k)).1.risen s.now)).setLastSrc k := by
  unfold afterEdge
  rw [acceptEdge_of_ok (by simp [high, low]) debounced fun _ => peak]
  simp [high, handleEdge, pulseStart, Channel.risen]

/-- A poll whose falling request passes debounce, before its flush triggers (R156, R157, R181 to R184). -/
theorem afterEdge_of_fall {s : State} {k : Chan} {x : Sample} (low : (condition s.cfg x (s.ch k)).2 = false)
    (high : (s.ch k).acc = true) (debounced : s.cfg.debounceTime ≤ subT s.cfg.timeW s.now (s.ch k).tTrans) :
    afterEdge k x s = append k (classifyDuration s.cfg (subT s.cfg.timeW s.now (s.ch k).start))
      (s.setCh k ((condition s.cfg x (s.ch k)).1.fallen s.now)) := by
  obtain ⟨-, -, startEq, -⟩ := condition_edges s.cfg x (s.ch k)
  unfold afterEdge
  rw [acceptEdge_of_ok (by simp [high, low]) debounced (by simp [low])]
  simp [low, handleEdge, pulseEnd, Channel.fallen, startEq]

/-- A poll without a request, or whose request fails a test, only conditions its channel (R156, R159). -/
theorem afterEdge_of_dropped {s : State} {k : Chan} {x : Sample}
    (dropped : (condition s.cfg x (s.ch k)).2 = (s.ch k).acc ∨
      subT s.cfg.timeW s.now (s.ch k).tTrans < s.cfg.debounceTime ∨
      ((condition s.cfg x (s.ch k)).2 = true ∧
        subT s.cfg.timeW s.now (s.ch k).tRise < s.cfg.peakDetectionThreshold)) :
    afterEdge k x s = s.setCh k (condition s.cfg x (s.ch k)).1 := by
  unfold afterEdge
  rw [acceptEdge_of_not dropped]
  rfl

/-- Settles O35: the triggers keep what the edge wrote. -/
theorem anAcceptedRisingEdge : Obligations.AnAcceptedRisingEdge := by
  unfold Obligations.AnAcceptedRisingEdge
  intro s k x idle wf high low debounced peak
  have rise := afterEdge_of_rise high low debounced peak
  have frame := poll_frame k x s
  have edges := frame.edges k
  have risen : (afterEdge k x s).ch k = (condition s.cfg x (s.ch k)).1.risen s.now := by simp [rise]
  obtain ⟨-, -, -, -, -, fallEq, -⟩ := condition_edges s.cfg x (s.ch k)
  rw [risen] at edges
  exact ⟨poll k x s, exec_rxs_of_idle idle wf, edges.acc, edges.pend, edges.start, edges.tRise, edges.tTrans,
    edges.tFall.trans fallEq, by simp [frame.lastSrc, rise]⟩

/-- Settles O36: neither the append nor the triggers write an edge register or `LAST_SRC`. -/
theorem anAcceptedFallingEdge : Obligations.AnAcceptedFallingEdge := by
  unfold Obligations.AnAcceptedFallingEdge
  intro s k x idle wf low high debounced
  have frame := poll_frame k x s
  obtain ⟨_, appended, -⟩ := append_onlyBuffers k (classifyDuration s.cfg (subT s.cfg.timeW s.now (s.ch k).start))
    (s.setCh k ((condition s.cfg x (s.ch k)).1.fallen s.now))
  rw [← afterEdge_of_fall low high debounced] at appended
  have edges := (appended.edges k).trans (frame.edges k)
  obtain ⟨-, -, startEq, -, riseEq, -⟩ := condition_edges s.cfg x (s.ch k)
  rw [State.ch_setCh_self] at edges
  exact ⟨poll k x s, exec_rxs_of_idle idle wf, edges.acc, edges.pend, edges.tFall, edges.tTrans,
    edges.start.trans startEq, edges.tRise.trans riseEq,
    frame.lastSrc.trans (appended.lastSrc.trans (s.setCh_lastSrc k _))⟩

/-- Settles O38: conditioning writes no edge register, and neither do the triggers. -/
theorem aDroppedRequestLeavesNoTrace : Obligations.ADroppedRequestLeavesNoTrace := by
  unfold Obligations.ADroppedRequestLeavesNoTrace
  intro s k x idle wf dropped
  have noEdge := afterEdge_of_dropped dropped
  have frame := poll_frame k x s
  have edges := frame.edges
  rw [noEdge] at edges
  refine ⟨poll k x s, exec_rxs_of_idle idle wf, by rw [poll_eq, noEdge], by simp [frame.lastSrc, noEdge],
    fun j => ?_⟩
  have same := edges j
  rcases chan_eq_or_other j k with rfl | rfl
  · obtain ⟨accEq, pendEq, startEq, transEq, riseEq, fallEq, -⟩ := condition_edges s.cfg x (s.ch j)
    rw [State.ch_setCh_self] at same
    exact ⟨same.acc.trans accEq, same.pend.trans pendEq, same.start.trans startEq, same.tTrans.trans transEq,
      same.tRise.trans riseEq, same.tFall.trans fallEq⟩
  · rw [State.ch_setCh_other] at same
    exact ⟨same.acc, same.pend, same.start, same.tTrans, same.tRise, same.tFall⟩

end Sys2Proof.Machine

/-!
PROOFS. The events of a poll, channel by channel, and the frame of RXS (R150, R203, R204).
-/

namespace Sys2Proof.Machine

/-- The event of a flush as that of its resolved code word (R203). -/
theorem flushEvents_eq (s : State) (k : Chan) :
    flushEvents s k = resolvedEvents s.cfg [(k, bufferCode (s.ch k))] := by
  unfold flushEvents resolvedEvents
  cases h : decodeCode s.cfg.codeTable (bufferCode (s.ch k)) <;> simp [h]

theorem resolvedEvents_append (cfg : Config) (a b : List (Chan × CodeWord)) :
    resolvedEvents cfg (a ++ b) = resolvedEvents cfg a ++ resolvedEvents cfg b :=
  List.filterMap_append

/-- Each code word's event stands under the code word's own channel (R203). -/
theorem resolvedEvents_filter (cfg : Config) (flushes : List (Chan × CodeWord)) (j : Chan) :
    (resolvedEvents cfg flushes).filter (fun e => e.src = j)
      = resolvedEvents cfg (flushes.filter (fun f => f.1 = j)) := by
  induction flushes with
  | nil => rfl
  | cons f rest ih =>
    rw [← List.singleton_append, resolvedEvents_append, List.filter_append, ih, List.filter_append,
      resolvedEvents_append]
    congr 1
    unfold resolvedEvents
    cases h : decodeCode cfg.codeTable f.2 <;> by_cases own : f.1 = j <;> simp [h, own]

/-- The code word the triggers of channel `j` resolve, if the channel is due (R204). -/
def dueFlush (now : Nat) (s : State) (j : Chan) : List (Chan × CodeWord) :=
  if flushDue now j s then [(j, bufferCode (s.ch j))] else []

/-- The code words the triggers resolve, in increasing order of their channels (R204, R207). -/
def dueFlushes (now : Nat) (s : State) : List (Chan × CodeWord) :=
  (s.cfg.channels.filter (fun j => flushDue now j s)).map (fun j => (j, bufferCode (s.ch j)))

theorem dueFlushes_of_single {s : State} (single : s.cfg.dualSource = false) (now : Nat) :
    dueFlushes now s = dueFlush now s .c0 := by
  cases due : flushDue now .c0 s <;> simp [dueFlushes, dueFlush, Config.channels, single, due]

theorem dueFlushes_of_dual {s : State} (dual : s.cfg.dualSource = true) (now : Nat) :
    dueFlushes now s = dueFlush now s .c0 ++ dueFlush now s .c1 := by
  cases due0 : flushDue now .c0 s <;> cases due1 : flushDue now .c1 s <;>
    simp [dueFlushes, dueFlush, Config.channels, dual, due0, due1]

theorem dueFlush_filter (now : Nat) (s : State) (i j : Chan) :
    (dueFlush now s i).filter (fun f => f.1 = j) = if i = j then dueFlush now s j else [] := by
  unfold dueFlush
  by_cases own : i = j
  · subst own; split <;> simp
  · split <;> simp [own]

/-- Each channel of the configuration has its own trigger pass (R204). -/
theorem dueFlushes_filter (now : Nat) (s : State) (j : Chan) :
    (dueFlushes now s).filter (fun f => f.1 = j) = if s.cfg.hasChannel j then dueFlush now s j else [] := by
  cases sources : s.cfg.dualSource
  · rw [dueFlushes_of_single sources, dueFlush_filter]
    cases j <;> simp [Config.hasChannel, sources]
  · rw [dueFlushes_of_dual sources, List.filter_append, dueFlush_filter, dueFlush_filter]
    cases j <;> simp [Config.hasChannel, sources]

theorem dueFlush_congr {s t : State} {j : Chan} (now : Nat) (cfgEq : t.cfg = s.cfg) (lastSrcEq : t.lastSrc = s.lastSrc)
    (chEq : t.ch j = s.ch j) : dueFlush now t j = dueFlush now s j := by
  rw [dueFlush, flushDue_congr now cfgEq lastSrcEq chEq, chEq, dueFlush]

/-- A trigger pass emits the event of its flush, if its channel is due (R204). -/
theorem flushTriggers_events (now : Nat) (s : State) (j : Chan) :
    OnlyBuffers s (flushTriggers now s j) (resolvedEvents s.cfg (dueFlush now s j)) := by
  unfold dueFlush
  rcases flushTriggers_cases now s j with ⟨due, flushed⟩ | ⟨notDue, untouched⟩
  · rw [flushed, if_pos due, ← flushEvents_eq]
    exact flush_onlyBuffers j s
  · rw [untouched, if_neg (by simp [notDue])]
    exact OnlyBuffers.refl s

/-- The triggers emit the events of the channels that are due, in increasing order: the first channel's pass leaves the
second as due as it was (R204, R207). -/
theorem flushAll_events (now : Nat) (s : State) :
    OnlyBuffers s (flushAll now s) (resolvedEvents s.cfg (dueFlushes now s)) := by
  have first := flushTriggers_events now s .c0
  cases sources : s.cfg.dualSource
  · rw [flushAll_of_single sources, dueFlushes_of_single sources]
    exact first
  · have second := flushTriggers_events now (flushTriggers now s .c0) .c1
    rw [first.cfg, dueFlush_congr now first.cfg first.lastSrc (flushTriggers_ch_ne now s (by decide))] at second
    rw [flushAll_of_dual sources, dueFlushes_of_dual sources, resolvedEvents_append]
    exact first.trans second

/-- What a flush emits stands under its own channel (R203). -/
theorem flushEvents_src {s : State} {k : Chan} {e : OutEvent} (mem : e ∈ flushEvents s k) : e.src = k := by
  unfold flushEvents at mem
  split at mem <;> simp_all

/-- An append emits under its own channel alone: the event of the flush it may cause (R202, R203). -/
theorem append_events (k : Chan) (sym : Symbol) (s : State) :
    ∃ new, (append k sym s).out = s.out ++ new ∧ ∀ e ∈ new, e.src = k := by
  rcases append_cases k sym s with ⟨-, rejected⟩ | ⟨-, -, flushed⟩ | ⟨-, -, pushed⟩
  · exact ⟨[], by simp [rejected]⟩
  · rw [flushed]
    exact ⟨_, ((pushSymbol_onlyBuffers k sym s).trans (flush_onlyBuffers k _)).out, fun _ => flushEvents_src⟩
  · exact ⟨[], by simp [pushed]⟩

/-- The edge of a poll emits under its own channel alone (R150). -/
theorem afterEdge_events (k : Chan) (x : Sample) (s : State) :
    ∃ new, (afterEdge k x s).out = s.out ++ new ∧ ∀ e ∈ new, e.src = k := by
  rcases afterEdge_cases k x s with noEdge | rise | ⟨sym, fall⟩
  · exact ⟨[], by simp [noEdge]⟩
  · exact ⟨[], by simp [rise]⟩
  · rw [fall]
    simpa using append_events k sym (s.setCh k ((condition s.cfg x (s.ch k)).1.fallen s.now))

/-- What a poll emits for the channel it does not name: the event of that channel's own triggers (R150, R204). -/
theorem poll_events_other (k : Chan) (x : Sample) (s : State) :
    ∃ new, (poll k x s).out = s.out ++ new ∧
      new.filter (fun e => e.src = k.other) =
        resolvedEvents s.cfg
          (if s.cfg.hasChannel k.other then dueFlush s.now (afterEdge k x s) k.other else []) := by
  obtain ⟨own, ownOut, ownSrc⟩ := afterEdge_events k x s
  have passes := flushAll_events s.now (afterEdge k x s)
  rw [afterEdge_cfg] at passes
  refine ⟨own ++ resolvedEvents s.cfg (dueFlushes s.now (afterEdge k x s)), ?_, ?_⟩
  · rw [poll_eq, passes.out, ownOut, List.append_assoc]
  · have noOther : own.filter (fun e => e.src = k.other) = [] :=
      List.filter_eq_nil_iff.2 fun e mem => by simpa [ownSrc e mem] using (chan_other_ne k).symm
    rw [List.filter_append, noOther, List.nil_append, resolvedEvents_filter, dueFlushes_filter, afterEdge_cfg]

/-- What a poll does to the channel it does not name: that channel's own triggers (R150, R204). -/
theorem poll_ch_other (k : Chan) (x : Sample) (s : State) :
    (poll k x s).ch k.other =
      if s.cfg.hasChannel k.other = true ∧ flushDue s.now k.other (afterEdge k x s) = true
      then { s.ch k.other with len := 0, buf := 0 } else s.ch k.other := by
  rw [poll_eq, flushAll_ch, afterEdge_cfg, triggered, afterEdge_ch_other, ite_and]

/-- Settles O51: an idle block polls, and the other channel only has its own trigger pass; a busy one holds. -/
theorem rxsFrame : Obligations.RxsFrame := by
  unfold Obligations.RxsFrame
  intro s k x wf
  cases busy : s.busy
  case true => exact ⟨s, [], exec_rxs_of_busy busy k x, by simp⟩
  case false =>
    have frame := poll_frame k x s
    obtain ⟨new, outEq, otherEvents⟩ := poll_events_other k x s
    refine ⟨poll k x s, new, exec_rxs_of_idle busy wf, frame.cfg, frame.now, frame.tx, frame.ill, frame.encMiss,
      frame.port, frame.rst, frame.env, outEq, nofun, fun _ hasOther due => ⟨?_, ?_⟩, fun _ notDue => ⟨?_, ?_⟩⟩
    · rw [poll_ch_other, if_pos ⟨hasOther, due⟩]
    · rw [otherEvents, if_pos hasOther, dueFlush, if_pos due, afterEdge_ch_other]
    · rw [poll_ch_other, if_neg notDue]
    · rw [otherEvents, dueFlush, ← ite_and, if_neg notDue]
      rfl

end Sys2Proof.Machine

/-!
PROOFS. The pulse classifier: durations modulo 2^T and their comparator (R182, R183), the symbol of an accepted falling
edge (R181, R201), and a line stuck active (R185).
-/

namespace Sys2Proof.Machine

/-! The comparator (R182). -/

theorem classifyDuration_of_lt {cfg : Config} {d : Nat} (below : d < cfg.dashThreshold) :
    classifyDuration cfg d = .dot :=
  if_pos below

theorem classifyDuration_of_le {cfg : Config} {d : Nat} (atLeast : cfg.dashThreshold ≤ d) :
    classifyDuration cfg d = .dash :=
  if_neg (Nat.not_lt.2 atLeast)

/-- A slot of the buffer says whether its pulse was a DASH (R15, R182). -/
theorem classifyDuration_bit (cfg : Config) (d : Nat) :
    (classifyDuration cfg d).bit = decide (cfg.dashThreshold ≤ d) := by
  rcases Nat.lt_or_ge d cfg.dashThreshold with below | atLeast
  · rw [classifyDuration_of_lt below]
    simp [Symbol.bit, below]
  · rw [classifyDuration_of_le atLeast]
    simp [Symbol.bit, atLeast]

/-- Settles O40: the values of R182 lie on the two sides of the threshold. -/
theorem theDurationComparator : Obligations.TheDurationComparator := by
  unfold Obligations.TheDurationComparator
  refine ⟨fun _ _ => ⟨classifyDuration_of_lt, classifyDuration_of_le⟩,
    fun _ zero d => classifyDuration_of_le (zero ▸ Nat.zero_le d), fun _ hundred => ⟨?_, ?_, ?_, ?_, ?_⟩⟩
  · exact classifyDuration_of_lt (by omega)
  · exact classifyDuration_of_lt (by omega)
  · exact classifyDuration_of_le (by omega)
  · exact classifyDuration_of_le (by omega)
  · exact classifyDuration_of_le (by omega)

/-! Durations (R183). -/

/-- What a register of `w` bits measures of `d` milliseconds, wherever they start (R12, R183). -/
theorem subT_add_mod (w start d : Nat) : subT w ((start + d) % 2 ^ w) start = d % 2 ^ w := by
  have modLt := Nat.mod_lt start (Nat.two_pow_pos w)
  have division := Nat.div_add_mod start (2 ^ w)
  have wholeTurns : start + d + (2 ^ w - start % 2 ^ w) = d + 2 ^ w * (start / 2 ^ w + 1) := by
    rw [Nat.mul_add, Nat.mul_one]
    omega
  rw [subT, Nat.mod_add_mod, wholeTurns, Nat.add_mul_mod_self_left]

/-- Settles O41: a measured interval is the interval modulo 2^T. -/
theorem durationsAreExactAcrossTheWrap : Obligations.DurationsAreExactAcrossTheWrap := by
  unfold Obligations.DurationsAreExactAcrossTheWrap
  refine ⟨fun w start d short => ?_, fun w start => ?_, by decide⟩
  · rw [subT_add_mod, Nat.mod_eq_of_lt short]
  · rw [subT_add_mod, Nat.mod_self]

/-! The triggers of a channel that is not due (R204 to R206). -/

/-- Triggers (a), (b) and (c) (R204 to R206). -/
theorem flushDue_iff (now : Nat) (j : Chan) (s : State) :
    flushDue now j s = true ↔
      (s.ch j).len.toNat = s.cfg.maxMorseLength ∨
      (0 < (s.ch j).len.toNat ∧ (s.ch j).acc = false ∧ s.cfg.charGapMs ≤ subT s.cfg.timeW now (s.ch j).tFall) ∨
      (s.cfg.dualSource = true ∧ 0 < (s.ch j).len.toNat ∧ s.lastSrc ≠ j) := by
  simp [flushDue, full_iff, nonEmpty_iff, gapOk, or_assoc, and_assoc]

/-- A poll leaves a channel that is not due as its edge left it (R204). -/
theorem poll_ch_of_notDue {k j : Chan} {x : Sample} {s : State} (notDue : flushDue s.now j (afterEdge k x s) = false) :
    (poll k x s).ch j = (afterEdge k x s).ch j := by
  rw [poll_eq, flushAll_ch, triggered, notDue]
  simp

/-- The triggers of a single source that is not due change nothing (R204). -/
theorem flushAll_of_single_notDue {s : State} {now : Nat} (single : s.cfg.dualSource = false)
    (notDue : flushDue now .c0 s = false) : flushAll now s = s := by
  rw [flushAll_of_single single, flushTriggers, notDue]
  rfl

/-! The end of a pulse (R181, R201). -/

/-- An append that leaves the buffer below capacity only pushes its symbol (R201, R202). -/
theorem append_of_below {s : State} {k : Chan} (capLe : s.cfg.maxMorseLength ≤ 7)
    (below : (s.ch k).len.toNat + 1 < s.cfg.maxMorseLength) (sym : Symbol) :
    append k sym s = s.setCh k (pushSymbol sym (s.ch k)) := by
  have oneMore := pushSymbol_len capLe (by omega : (s.ch k).len.toNat < s.cfg.maxMorseLength) sym
  rcases append_cases k sym s with ⟨atCap, -⟩ | ⟨-, reached, -⟩ | ⟨-, -, pushed⟩
  · rw [full_iff] at atCap
    omega
  · rw [full_iff] at reached
    omega
  · exact pushed

/-- The channel at the end of a pulse, its symbol appended (R156, R181, R201). -/
def Channel.pulsed (cfg : Config) (now : Nat) (c : Channel) : Channel :=
  pushSymbol (classifyDuration cfg (subT cfg.timeW now c.start)) (c.fallen now)

theorem pulsed_len {cfg : Config} {c : Channel} (capLe : cfg.maxMorseLength ≤ 7)
    (room : c.len.toNat < cfg.maxMorseLength) (now : Nat) : (c.pulsed cfg now).len.toNat = c.len.toNat + 1 :=
  pushSymbol_len (c := c.fallen now) capLe room _

/-- The next free slot takes the duration's class and the other slots stay (R182, R201). -/
theorem pulsed_buf (cfg : Config) (now : Nat) {c : Channel} (slot : c.len.toNat < 7) (i : Nat) :
    (c.pulsed cfg now).buf.getLsbD i =
      if i = c.len.toNat then decide (cfg.dashThreshold ≤ subT cfg.timeW now c.start) else c.buf.getLsbD i := by
  rw [← classifyDuration_bit]
  exact getLsbD_setBit _ _ _ _ slot

/-- A poll whose falling request passes debounce and whose symbol leaves the buffer below capacity, before its flush
triggers (R156, R157, R181, R201). -/
theorem afterEdge_of_fall_below {s : State} {k : Chan} {x : Sample} (capLe : s.cfg.maxMorseLength ≤ 7)
    (low : (condition s.cfg x (s.ch k)).2 = false) (high : (s.ch k).acc = true)
    (debounced : s.cfg.debounceTime ≤ subT s.cfg.timeW s.now (s.ch k).tTrans)
    (below : (s.ch k).len.toNat + 1 < s.cfg.maxMorseLength) :
    afterEdge k x s = s.setCh k ((condition s.cfg x (s.ch k)).1.pulsed s.cfg s.now) := by
  obtain ⟨-, -, startEq, -, -, -, lenEq, -⟩ := condition_edges s.cfg x (s.ch k)
  rw [afterEdge_of_fall low high debounced,
    append_of_below (by simpa using capLe) (by simpa [Channel.fallen, lenEq] using below)]
  simp [Channel.pulsed, startEq]

/-- No trigger holds where a pulse ends now: the buffer is not full, the source was not taken over, and of a character
gap of more than 0 ms none has elapsed (R204 to R206). -/
theorem pulsed_notDue {s : State} {k : Chan} {c : Channel} {now : Nat} (capLe : s.cfg.maxMorseLength ≤ 7)
    (below : c.len.toNat + 1 < s.cfg.maxMorseLength) (gapPos : 0 < s.cfg.charGapMs)
    (ownSource : s.cfg.dualSource = true → s.lastSrc = k) :
    flushDue now k (s.setCh k (c.pulsed s.cfg now)) = false := by
  have oneMore := pulsed_len capLe (by omega : c.len.toNat < s.cfg.maxMorseLength) now
  have noGap : subT s.cfg.timeW now (c.pulsed s.cfg now).tFall = 0 := subT_self s.cfg.timeW now
  rw [Bool.eq_false_iff, ne_eq, flushDue_iff]
  simp only [State.ch_setCh_self, State.setCh_cfg, State.setCh_lastSrc]
  rintro (atCap | ⟨-, -, gap⟩ | ⟨dual, -, taken⟩)
  · omega
  · omega
  · exact taken (ownSource dual)

/-- Settles O37: the edge appends the symbol, and no trigger is due. -/
theorem aFallingEdgeAppendsOneSymbol : Obligations.AFallingEdgeAppendsOneSymbol := by
  unfold Obligations.AFallingEdgeAppendsOneSymbol
  intro s k x inv idle wf low high debounced below gapPos ownSource
  obtain ⟨-, -, -, -, ⟨-, capLe⟩, -⟩ := (config_valid_iff s.cfg).1 inv.cfgValid
  obtain ⟨-, -, startEq, -, -, -, lenEq, bufEq⟩ := condition_edges s.cfg x (s.ch k)
  have edge := afterEdge_of_fall_below capLe low high debounced below
  have notDue : flushDue s.now k (afterEdge k x s) = false := by
    rw [edge]
    exact pulsed_notDue capLe (lenEq ▸ below) gapPos ownSource
  have polled := poll_ch_of_notDue notDue
  rw [edge, State.ch_setCh_self] at polled
  have slots := pulsed_buf s.cfg s.now (c := (condition s.cfg x (s.ch k)).1) (by rw [lenEq]; omega)
  rw [startEq, lenEq, bufEq] at slots
  refine ⟨poll k x s, exec_rxs_of_idle idle wf, ?_, ?_, fun i notNext => ?_⟩
  · rw [polled, pulsed_len capLe (by rw [lenEq]; omega), lenEq]
  · rw [polled, slots, if_pos rfl]
  · rw [polled, slots, if_neg notNext]

/-! A line stuck active (R185). -/

/-- No trigger holds of an active channel below capacity whose source was not taken over: its gap has not begun (R204
to R206). -/
theorem active_notDue {s : State} {j : Chan} (now : Nat) (active : (s.ch j).acc = true)
    (below : (s.ch j).len.toNat < s.cfg.maxMorseLength) (ownSource : s.cfg.dualSource = true → s.lastSrc = j) :
    flushDue now j s = false := by
  rw [Bool.eq_false_iff, ne_eq, flushDue_iff]
  rintro (atCap | ⟨-, atRest, -⟩ | ⟨dual, -, taken⟩)
  · omega
  · simp [active] at atRest
  · exact taken (ownSource dual)

/-- Settles O42: a raw state that is the accepted one is no request, and an active channel is not due. -/
theorem aStuckActiveLineOnlyFillsTheWindow : Obligations.AStuckActiveLineOnlyFillsTheWindow := by
  unfold Obligations.AStuckActiveLineOnlyFillsTheWindow
  intro s x inv idle single wf raw active
  obtain ⟨accEq, -, -, -, -, -, lenEq, -⟩ := condition_edges s.cfg x s.ch0
  have edge : afterEdge .c0 x s = s.setCh .c0 (condition s.cfg x s.ch0).1 :=
    afterEdge_of_dropped (.inl (raw.trans active.symm))
  have notDue : flushDue s.now .c0 (s.setCh .c0 (condition s.cfg x s.ch0).1) = false :=
    active_notDue s.now (accEq.trans active) (lenEq ▸ inv.ch0Inv.lenBelowCap) (by simp [single])
  rw [exec_rxs_of_idle idle wf, poll_eq, edge, flushAll_of_single_notDue (by simpa using single) notDue]
  rfl

end Sys2Proof.Machine

/-!
PROOFS. The symbol assembler's two operations: a flush with and without a character (R203), and an append below
capacity, reaching it and at it (R201, R202).
-/

namespace Sys2Proof.Machine

/-! A flush (R203). -/

/-- A flush of a buffer with a character (R203). -/
theorem flush_of_match {s : State} {k : Chan} {c : Byte}
    (isMatch : decodeCode s.cfg.codeTable (bufferCode (s.ch k)) = some c) :
    flush k s = (s.emit k c).setCh k { s.ch k with len := 0, buf := 0 } := by
  simp [flush, resolve, isMatch]

/-- Settles O43: the buffer's code word has a character, or none, and past five symbols it has none. -/
theorem aFlushResolvesTheBuffer : Obligations.AFlushResolvesTheBuffer := by
  unfold Obligations.AFlushResolvesTheBuffer
  intro s k
  exact ⟨fun _ isMatch => flush_of_match isMatch, fun noMatch => flush_of_noMatch noMatch,
    fun six => decodeCode_of_long _ six⟩

/-! An append (R201, R202). -/

/-- An append at capacity is rejected (R201). -/
theorem append_of_full {s : State} {k : Chan} (atCap : (s.ch k).len.toNat = s.cfg.maxMorseLength) (sym : Symbol) :
    append k sym s = s := by
  simp [append, (full_iff s.cfg (s.ch k)).2 atCap]

/-- The append that reaches capacity flushes at once (R202). -/
theorem append_of_reaching {s : State} {k : Chan} (capLe : s.cfg.maxMorseLength ≤ 7)
    (reaching : (s.ch k).len.toNat + 1 = s.cfg.maxMorseLength) (sym : Symbol) :
    append k sym s = flush k (s.setCh k (pushSymbol sym (s.ch k))) := by
  have oneMore := pushSymbol_len capLe (by omega : (s.ch k).len.toNat < s.cfg.maxMorseLength) sym
  rcases append_cases k sym s with ⟨atCap, -⟩ | ⟨-, -, flushed⟩ | ⟨-, below, -⟩
  · rw [full_iff] at atCap
    omega
  · exact flushed
  · rw [Bool.eq_false_iff, ne_eq, full_iff] at below
    omega

/-- Settles O44: the buffer after the append is `pushSymbol`'s. -/
theorem anAppendFillsTheNextSlot : Obligations.AnAppendFillsTheNextSlot := by
  unfold Obligations.AnAppendFillsTheNextSlot
  intro s k sym capLe
  refine ⟨fun atCap => append_of_full atCap sym, fun room => ⟨(pushSymbol sym (s.ch k)).buf, ?_, ?_, ?_⟩⟩
  · exact (getLsbD_setBit _ _ _ _ (by omega)).trans (if_pos rfl)
  · exact fun i other => (getLsbD_setBit _ _ _ _ (by omega)).trans (if_neg other)
  · split
    · exact append_of_reaching capLe ‹_› sym
    · exact append_of_below capLe (by omega) sym

/-! Appends one after the other (R209). -/

/-- A channel with its buffer emptied, as a flush leaves it (R203). -/
def Channel.emptied (c : Channel) : Channel := { c with len := 0, buf := 0 }

/-- A channel whose buffer is empty stays as it is when emptied. -/
theorem Channel.emptied_of_empty {c : Channel} (lenZero : c.len = 0) (bufZero : c.buf = 0) : c.emptied = c := by
  rw [Channel.emptied, ← lenZero, ← bufZero]

/-- A flush of a channel with no character, whatever its registers were before (R203). -/
theorem flush_setCh_of_noMatch {s : State} {k : Chan} {c : Channel}
    (noMatch : decodeCode s.cfg.codeTable (bufferCode c) = none) :
    flush k (s.setCh k c) = s.countDecMiss.setCh k c.emptied := by
  rw [flush_of_noMatch (by simpa using noMatch), State.ch_setCh_self]
  cases k <;> rfl

/-- Appends that leave the buffer below capacity only fill it (R201, R202). -/
theorem appends_of_below {k : Chan} (syms : List Symbol) {s : State} (capLe : s.cfg.maxMorseLength ≤ 7)
    (room : (s.ch k).len.toNat + syms.length < s.cfg.maxMorseLength) :
    ∃ c, syms.foldl (fun s sym => append k sym s) s = s.setCh k c ∧
      c.len.toNat = (s.ch k).len.toNat + syms.length ∧ c.emptied = (s.ch k).emptied := by
  induction syms generalizing s with
  | nil => exact ⟨s.ch k, by simp, rfl, rfl⟩
  | cons sym rest ih =>
    rw [List.length_cons] at room ⊢
    have oneMore := pushSymbol_len capLe (by omega : (s.ch k).len.toNat < s.cfg.maxMorseLength) sym
    obtain ⟨c, filled, lenEq, emptied⟩ := ih (s := s.setCh k (pushSymbol sym (s.ch k))) (by simpa using capLe)
      (by simp only [State.ch_setCh_self, State.setCh_cfg]; omega)
    rw [State.ch_setCh_self] at lenEq emptied
    refine ⟨c, ?_, by omega, emptied⟩
    rw [List.foldl_cons, append_of_below capLe (by omega), filled, State.setCh_setCh]

/-- Settles O45: five symbols only fill the buffer, and the sixth makes a code word that no entry matches. -/
theorem sixSymbolsFlushOnce : Obligations.SixSymbolsFlushOnce := by
  unfold Obligations.SixSymbolsFlushOnce
  intro s k syms capacity lenZero bufZero
  have lenNat : (s.ch k).len.toNat = 0 := by simp [lenZero]
  refine ⟨fun five => ?_, fun six => ?_⟩
  · obtain ⟨c, filled, lenEq, -⟩ := appends_of_below (k := k) syms (s := s) (by omega) (by omega)
    have heldFive : c.len = 5 := BitVec.eq_of_toNat_eq (by simp; omega)
    simp [filled, heldFive]
  · obtain rfl | ⟨five, last, rfl⟩ := List.eq_nil_or_concat syms
    · simp at six
    rw [List.length_concat] at six
    obtain ⟨c, filled, lenEq, emptied⟩ := appends_of_below (k := k) five (s := s) (by omega) (by omega)
    have sixHeld := pushSymbol_len (cfg := s.cfg) (c := c) (by omega) (by omega) last
    have noMatch : decodeCode s.cfg.codeTable (bufferCode (pushSymbol last c)) = none :=
      decodeCode_of_long _ (by simp only [bufferCode]; omega)
    have cleared : (pushSymbol last c).emptied = s.ch k :=
      emptied.trans (Channel.emptied_of_empty lenZero bufZero)
    show (five.concat last).foldl (fun s sym => append k sym s) s = s.countDecMiss
    rw [List.concat_eq_append, List.foldl_concat, filled, append_of_reaching (by simp; omega) (by simp; omega),
      State.ch_setCh_self, State.setCh_setCh, flush_setCh_of_noMatch noMatch, cleared,
      ← State.countDecMiss_ch, State.setCh_ch]

end Sys2Proof.Machine

/-!
PROOFS. The flush triggers of a poll (R204 to R207): which channels they flush, after no edge and after a rising edge on
the other source, and what a poll may do to a channel's `LEN` (R208).
-/

namespace Sys2Proof.Machine

/-! The triggers of every channel (R204, R207). -/

theorem flushTriggers_of_due {s : State} {now : Nat} {j : Chan} (due : flushDue now j s = true) :
    flushTriggers now s j = flush j s :=
  if_pos due

theorem flushTriggers_of_notDue {s : State} {now : Nat} {j : Chan} (notDue : flushDue now j s = false) :
    flushTriggers now s j = s :=
  if_neg (by simp [notDue])

/-- The first channel's pass leaves the second as due as it was (R200, R204). -/
theorem flushDue_c1_flushTriggers_c0 (now : Nat) (s : State) :
    flushDue now .c1 (flushTriggers now s .c0) = flushDue now .c1 s := by
  obtain ⟨_, first, -⟩ := flushTriggers_onlyBuffers now s .c0
  exact flushDue_congr now first.cfg first.lastSrc (flushTriggers_ch_ne now s (by decide))

/-- Channel 0 is flushed if it is due, and then channel 1 if it exists and is due (R204, R207). -/
theorem flushAll_eq (now : Nat) (s : State) :
    flushAll now s =
      if s.cfg.hasChannel .c1 = true ∧ flushDue now .c1 s = true then flush .c1 (flushTriggers now s .c0)
      else flushTriggers now s .c0 := by
  cases sources : s.cfg.dualSource
  · rw [flushAll_of_single sources, if_neg (by simp [Config.hasChannel, sources])]
  · rw [flushAll_of_dual sources, flushTriggers, flushDue_c1_flushTriggers_c0]
    simp [Config.hasChannel, sources]

/-- With two sources of which one channel alone is due, that one is flushed (R204). -/
theorem flushAll_of_one_due {s : State} {now : Nat} {j : Chan} (dual : s.cfg.dualSource = true)
    (due : flushDue now j s = true) (otherNotDue : flushDue now j.other s = false) : flushAll now s = flush j s := by
  rw [flushAll_eq]
  cases j with
  | c0 =>
    have notDue1 : flushDue now .c1 s = false := otherNotDue
    rw [if_neg (by simp [notDue1]), flushTriggers_of_due due]
  | c1 =>
    have notDue0 : flushDue now .c0 s = false := otherNotDue
    rw [if_pos ⟨dual, due⟩, flushTriggers_of_notDue notDue0]

/-! A poll that finds no edge (R204 to R206). -/

/-- Between steps no buffer is full, so what the rules want flushed after conditioning is what triggers (b) and (c) find
due: conditioning writes none of the registers they read (R204 to R206). -/
theorem flushWanted_iff {s : State} (inv : StateInv s) (k : Chan) (x : Sample) (j : Chan) :
    FlushWanted s j ↔
      s.cfg.hasChannel j = true ∧ flushDue s.now j (s.setCh k (condition s.cfg x (s.ch k)).1) = true := by
  obtain ⟨accEq, -, -, -, -, fallEq, lenEq, -⟩ := condition_edges s.cfg x (s.ch k)
  have same : ((s.setCh k (condition s.cfg x (s.ch k)).1).ch j).acc = (s.ch j).acc ∧
      ((s.setCh k (condition s.cfg x (s.ch k)).1).ch j).tFall = (s.ch j).tFall ∧
      ((s.setCh k (condition s.cfg x (s.ch k)).1).ch j).len = (s.ch j).len := by
    rcases chan_eq_or_other j k with rfl | rfl
    · rw [State.ch_setCh_self]
      exact ⟨accEq, fallEq, lenEq⟩
    · rw [State.ch_setCh_other]
      exact ⟨rfl, rfl, rfl⟩
  obtain ⟨accSame, fallSame, lenSame⟩ := same
  have notFull : (s.ch j).len.toNat ≠ s.cfg.maxMorseLength := (inv.ch j).lenBelowCap.ne
  rw [flushDue_iff, lenSame, accSame, fallSame]
  simp only [FlushWanted, State.setCh_cfg, State.setCh_lastSrc]
  tauto

/-- Settles O46: without an edge the triggers run on the conditioned state. -/
theorem theGapFlushesTheBuffer : Obligations.TheGapFlushesTheBuffer := by
  unfold Obligations.TheGapFlushesTheBuffer
  intro s k x inv idle wf dropped
  have wanted0 : FlushWanted s .c0 ↔ flushDue s.now .c0 (s.setCh k (condition s.cfg x (s.ch k)).1) = true :=
    (flushWanted_iff inv k x .c0).trans (and_iff_right rfl)
  rw [exec_rxs_of_idle idle wf, poll_eq, afterEdge_of_dropped dropped, flushAll_eq, flushTriggers]
  simp only [wanted0, flushWanted_iff inv k x .c1, State.setCh_cfg]
  refine ⟨fun due0 due1 => ?_, fun due0 not1 => ?_, fun not0 due1 => ?_, fun not0 not1 => ?_⟩
  · rw [if_pos due1, if_pos due0]
  · rw [if_neg not1, if_pos due0]
  · rw [if_pos due1, if_neg not0]
  · rw [if_neg not1, if_neg not0]

/-! A rising edge on one of two sources (R206). -/

/-- With two sources a rising edge takes the source over, so the other channel is due if it holds a symbol (R180,
R206). -/
theorem takenOver_due {s : State} {j : Chan} (now : Nat) (dual : s.cfg.dualSource = true)
    (taken : s.lastSrc = j.other) (holds : 0 < (s.ch j).len.toNat) : flushDue now j s = true :=
  (flushDue_iff now j s).2 (.inr (.inr ⟨dual, holds, taken ▸ chan_other_ne j⟩))

/-- With two sources a poll that accepts a rising edge on `k` flushes the other channel if it holds a symbol, and
nothing else (R180, R206). -/
theorem poll_of_rise_dual {s : State} {k : Chan} {x : Sample} (inv : StateInv s) (dual : s.cfg.dualSource = true)
    (rise : afterEdge k x s = (s.setCh k ((condition s.cfg x (s.ch k)).1.risen s.now)).setLastSrc k)
    (holds : 0 < (s.ch k.other).len.toNat) : poll k x s = flush k.other (afterEdge k x s) := by
  obtain ⟨-, -, -, -, -, -, lenEq, -⟩ := condition_edges s.cfg x (s.ch k)
  have cfgEq := afterEdge_cfg k x s
  have taken : (afterEdge k x s).lastSrc = k := by simp [rise, dual]
  have risen : (afterEdge k x s).ch k = (condition s.cfg x (s.ch k)).1.risen s.now := by simp [rise]
  have below : ((afterEdge k x s).ch k).len.toNat < (afterEdge k x s).cfg.maxMorseLength := by
    rw [risen, cfgEq]
    simpa [Channel.risen, lenEq] using (inv.ch k).lenBelowCap
  have otherDue : flushDue s.now k.other (afterEdge k x s) = true :=
    takenOver_due s.now (by rw [cfgEq, dual]) (by rw [taken, chan_other_other]) (by rwa [afterEdge_ch_other])
  have ownNotDue : flushDue s.now k (afterEdge k x s) = false :=
    active_notDue s.now (by rw [risen]; rfl) below (fun _ => taken)
  exact flushAll_of_one_due (by rw [cfgEq, dual]) otherDue (by rwa [chan_other_other])

/-- Settles O47: the rising edge leaves the other channel's buffer as it was, and its flush resolves it. -/
theorem aSourceChangeFlushesTheOtherBuffer : Obligations.ASourceChangeFlushesTheOtherBuffer := by
  unfold Obligations.ASourceChangeFlushesTheOtherBuffer
  intro s k x inv idle dual wf high low debounced peak holds
  have rise := afterEdge_of_rise high low debounced peak
  have polled := poll_of_rise_dual inv dual rise holds
  have ownKept := flush_ch_ne (chan_other_ne k).symm (afterEdge k x s)
  have otherCode : (afterEdge k x s).ch k.other = s.ch k.other := afterEdge_ch_other k x s
  obtain ⟨-, -, -, -, -, -, lenEq, bufEq⟩ := condition_edges s.cfg x (s.ch k)
  refine ⟨poll k x s, exec_rxs_of_idle idle wf, ?_, ?_, ?_, ?_, ?_, fun c isMatch => ?_, fun noMatch => ?_⟩
  · rw [polled, (flush_onlyBuffers k.other _).lastSrc]
    simp [rise, dual]
  · rw [polled, flush_ch_self]
  · rw [polled, flush_ch_self]
  · rw [polled, ownKept]
    simp [rise, Channel.risen, lenEq]
  · rw [polled, ownKept]
    simp [rise, Channel.risen, bufEq]
  · rw [polled, flush_of_match (c := c) (by rwa [afterEdge_cfg, otherCode])]
    simp [rise]
  · rw [polled, flush_of_noMatch (by rwa [afterEdge_cfg, otherCode])]
    simp [rise]

/-! The transitions of `LEN` (R208). -/

/-- From `c` to `d` the buffer's length stayed, grew by one and is below capacity, or became 0 (R208). -/
def LenStep (cfg : Config) (c d : Channel) : Prop :=
  d.len = c.len ∨ (d.len.toNat = c.len.toNat + 1 ∧ d.len.toNat < cfg.maxMorseLength) ∨ d.len = 0

/-- An append to a buffer below capacity (R201, R202). -/
theorem lenStep_append {s : State} {k : Chan} (capLe : s.cfg.maxMorseLength ≤ 7)
    (room : (s.ch k).len.toNat < s.cfg.maxMorseLength) (sym : Symbol) :
    LenStep s.cfg (s.ch k) ((append k sym s).ch k) := by
  rcases Nat.lt_or_ge ((s.ch k).len.toNat + 1) s.cfg.maxMorseLength with below | reaching
  · have oneMore := pushSymbol_len capLe room sym
    rw [append_of_below capLe below, State.ch_setCh_self]
    exact .inr (.inl ⟨oneMore, by omega⟩)
  · rw [append_of_reaching capLe (by omega), flush_ch_self]
    exact .inr (.inr rfl)

/-- The edge of a poll, on its own channel (R150, R208). -/
theorem lenStep_afterEdge {s : State} (inv : StateInv s) (k : Chan) (x : Sample) :
    LenStep s.cfg (s.ch k) ((afterEdge k x s).ch k) := by
  obtain ⟨-, -, -, -, ⟨-, capLe⟩, -⟩ := (config_valid_iff s.cfg).1 inv.cfgValid
  obtain ⟨-, -, -, -, -, -, lenEq, -⟩ := condition_edges s.cfg x (s.ch k)
  rcases afterEdge_cases k x s with noEdge | rise | ⟨sym, fall⟩
  · exact .inl (by simp [noEdge, lenEq])
  · exact .inl (by simp [rise, Channel.risen, lenEq])
  · have fallenLen : ((condition s.cfg x (s.ch k)).1.fallen s.now).len = (s.ch k).len := lenEq
    have appended := lenStep_append (s := s.setCh k ((condition s.cfg x (s.ch k)).1.fallen s.now)) (k := k)
      (by simpa using capLe) (by simpa [fallenLen] using (inv.ch k).lenBelowCap) sym
    simpa [LenStep, fall, fallenLen] using appended

theorem lenStep_poll {s : State} (inv : StateInv s) (k : Chan) (x : Sample) (j : Chan) :
    LenStep s.cfg (s.ch j) ((poll k x s).ch j) := by
  rcases poll_ch_cases k x s j with kept | emptied
  · rw [kept]
    rcases chan_eq_or_other j k with rfl | rfl
    · exact lenStep_afterEdge inv j x
    · exact .inl (by rw [afterEdge_ch_other])
  · exact .inr (.inr (by rw [emptied]))

/-- Settles O48: only a poll writes a buffer. -/
theorem theAssemblersTransitions : Obligations.TheAssemblersTransitions := by
  unfold Obligations.TheAssemblersTransitions
  intro s t i j inv performed
  rcases exec_cases performed with rfl | rfl | ⟨k, x, -, -, rfl⟩ | ⟨c, -, -, rfl⟩ | ⟨c, w, -, -, rfl⟩ | ⟨-, rfl⟩
  · exact .inl rfl
  · exact .inl (by simp)
  · exact lenStep_poll inv k x j
  · exact .inl (by simp)
  · exact .inl (by simp)
  · exact .inl (by simp [tick])

end Sys2Proof.Machine

/-!
PROOFS. The channels are independent (R200): two states that agree in what a poll of a channel reads stay so through
each stage of the poll.
-/

namespace Sys2Proof.Machine

/-- `s` and `t` agree in all a poll of channel `k` reads to decide what it does to that channel (R150, R200). -/
structure SameView (k : Chan) (s t : State) : Prop where
  cfg : t.cfg = s.cfg
  now : t.now = s.now
  lastSrc : t.lastSrc = s.lastSrc
  ch : t.ch k = s.ch k

theorem SameView.setCh_other (s : State) (k : Chan) (c : Channel) : SameView k s (s.setCh k.other c) :=
  ⟨by simp, by simp, by simp, by simp⟩

theorem SameView.setCh {k : Chan} {s t : State} (same : SameView k s t) (c : Channel) :
    SameView k (s.setCh k c) (t.setCh k c) :=
  ⟨by simp [same.cfg], by simp [same.now], by simp [same.lastSrc], by simp⟩

theorem SameView.setLastSrc {k : Chan} {s t : State} (same : SameView k s t) :
    SameView k (s.setLastSrc k) (t.setLastSrc k) :=
  ⟨by simp [same.cfg], by simp [same.now], by simp [same.lastSrc, same.cfg], by simp [same.ch]⟩

theorem SameView.append {k : Chan} {s t : State} (same : SameView k s t) (sym : Symbol) :
    SameView k (append k sym s) (append k sym t) := by
  obtain ⟨_, frameS, -⟩ := append_onlyBuffers k sym s
  obtain ⟨_, frameT, -⟩ := append_onlyBuffers k sym t
  exact {
    cfg := by rw [frameS.cfg, frameT.cfg, same.cfg]
    now := by rw [frameS.now, frameT.now, same.now]
    lastSrc := by rw [frameS.lastSrc, frameT.lastSrc, same.lastSrc]
    ch := by rw [append_ch_self, append_ch_self, same.cfg, same.ch] }

theorem SameView.handleEdge {k : Chan} {s t : State} (same : SameView k s t) (now : Nat) (e : Edge) :
    SameView k (handleEdge k now e s) (handleEdge k now e t) := by
  cases e with
  | none => exact same
  | rise =>
    simp only [Machine.handleEdge, pulseStart, same.ch]
    exact (same.setCh _).setLastSrc
  | fall =>
    simp only [Machine.handleEdge, pulseEnd, same.ch, same.cfg]
    exact (same.setCh _).append _

theorem SameView.afterEdge {k : Chan} {s t : State} (same : SameView k s t) (x : Sample) :
    SameView k (afterEdge k x s) (afterEdge k x t) := by
  simp only [Machine.afterEdge, same.cfg, same.now, same.ch]
  exact (same.setCh _).handleEdge _ _

/-- What a poll does to its own channel follows from what it reads (R200). -/
theorem SameView.poll_ch {k : Chan} {s t : State} (same : SameView k s t) (x : Sample) :
    (poll k x t).ch k = (poll k x s).ch k := by
  have edge := same.afterEdge x
  rw [poll_eq, poll_eq, flushAll_ch, flushAll_ch, triggered, triggered, same.now, edge.cfg, edge.ch,
    flushDue_congr s.now edge.cfg edge.lastSrc edge.ch]

/-- An idle block answers an RXS whose operands it lacks as an illegal word (R150, R264). -/
theorem exec_rxs_of_lacking {s : State} {k : Chan} {x : Sample} (idle : s.busy = false)
    (lacking : (Instr.rxs k x).wf s.cfg = false) : exec (.rxs k x) s = .next s.raiseIll := by
  simp [exec, execRxs, whenReady_of_idle idle, lacking]

/-- Settles O50: the other channel's registers are none that the RXS reads, whether it is held, has operands the
configuration lacks, or polls. -/
theorem channelsAreIndependent : Obligations.ChannelsAreIndependent := by
  unfold Obligations.ChannelsAreIndependent
  intro s k x c
  have same := SameView.setCh_other s k c
  have busySame : (s.setCh k.other c).busy = s.busy := by simp [State.busy]
  rcases execRxs_cases k x s with ⟨busy, held⟩ | ⟨idle, noSuch, illegal⟩ | ⟨idle, wf, polled⟩
  · exact ⟨s, s.setCh k.other c, held, exec_rxs_of_busy (busySame.trans busy) k x, same.ch.symm⟩
  · exact ⟨s.raiseIll, (s.setCh k.other c).raiseIll, illegal,
      exec_rxs_of_lacking (busySame.trans idle) (by rwa [same.cfg]), by simp⟩
  · exact ⟨poll k x s, poll k x (s.setCh k.other c), polled,
      exec_rxs_of_idle (busySame.trans idle) (by rwa [same.cfg]), (same.poll_ch x).symm⟩

end Sys2Proof.Machine

/-!
PROOFS. The flushes of a poll and what comes of them (R203, R204, R207): each stage of a poll resolves its code words,
one event or one miss for each, and no channel is flushed twice.
-/

namespace Sys2Proof.Machine

/-! Resolved code words (R203). -/

/-- From `s` to `t` the code words `flushes` were resolved: those with a character are emitted in order, the others
counted as misses (R203). -/
structure Resolves (s t : State) (flushes : List (Chan × CodeWord)) : Prop where
  cfg : t.cfg = s.cfg
  out : t.out = s.out ++ resolvedEvents s.cfg flushes
  charPort : t.charPort = s.charPort ++ resolvedEvents s.cfg flushes
  decMiss : t.decMiss = s.decMiss + BitVec.ofNat 16 (flushes.length - (resolvedEvents s.cfg flushes).length)

/-- A code word has at most one character (R203). -/
theorem resolvedEvents_length_le (cfg : Config) (flushes : List (Chan × CodeWord)) :
    (resolvedEvents cfg flushes).length ≤ flushes.length :=
  List.length_filterMap_le _ _

theorem Resolves.nil {s t : State} (cfg : t.cfg = s.cfg) (out : t.out = s.out) (charPort : t.charPort = s.charPort)
    (decMiss : t.decMiss = s.decMiss) : Resolves s t [] :=
  ⟨cfg, by simp [out, resolvedEvents], by simp [charPort, resolvedEvents], by simp [decMiss, resolvedEvents]⟩

theorem Resolves.trans {s t u : State} {a b : List (Chan × CodeWord)} (first : Resolves s t a)
    (second : Resolves t u b) : Resolves s u (a ++ b) := by
  have secondOut := second.out
  have secondPort := second.charPort
  have secondMiss := second.decMiss
  rw [first.cfg] at secondOut secondPort secondMiss
  have leA := resolvedEvents_length_le s.cfg a
  have leB := resolvedEvents_length_le s.cfg b
  have misses : (a ++ b).length - (resolvedEvents s.cfg (a ++ b)).length =
      (a.length - (resolvedEvents s.cfg a).length) + (b.length - (resolvedEvents s.cfg b).length) := by
    rw [resolvedEvents_append, List.length_append, List.length_append]
    omega
  exact {
    cfg := second.cfg.trans first.cfg
    out := by rw [secondOut, first.out, resolvedEvents_append, List.append_assoc]
    charPort := by rw [secondPort, first.charPort, resolvedEvents_append, List.append_assoc]
    decMiss := by rw [secondMiss, first.decMiss, misses, BitVec.ofNat_add, BitVec.add_assoc] }

theorem resolves_flush (k : Chan) (s : State) : Resolves s (flush k s) [(k, bufferCode (s.ch k))] := by
  have frame := flush_onlyBuffers k s
  rw [flushEvents_eq] at frame
  refine ⟨frame.cfg, frame.out, frame.charPort, ?_⟩
  rw [flush_decMiss, flushEvents_eq]
  cases resolved : decodeCode s.cfg.codeTable (bufferCode (s.ch k)) <;> simp [resolvedEvents, resolved]

/-! The triggers (R204). -/

theorem resolves_flushTriggers (now : Nat) (s : State) (j : Chan) :
    Resolves s (flushTriggers now s j) (dueFlush now s j) := by
  unfold dueFlush
  rcases flushTriggers_cases now s j with ⟨due, flushed⟩ | ⟨notDue, untouched⟩
  · rw [flushed, if_pos due]
    exact resolves_flush j s
  · rw [untouched, if_neg (by simp [notDue])]
    exact .nil rfl rfl rfl rfl

/-- The first channel's pass leaves the second's flush as it was (R200, R204). -/
theorem dueFlush_c1_flushTriggers_c0 (now : Nat) (s : State) :
    dueFlush now (flushTriggers now s .c0) .c1 = dueFlush now s .c1 := by
  have first := flushTriggers_events now s .c0
  exact dueFlush_congr now first.cfg first.lastSrc (flushTriggers_ch_ne now s (by decide))

theorem resolves_flushAll (now : Nat) (s : State) : Resolves s (flushAll now s) (dueFlushes now s) := by
  have first := resolves_flushTriggers now s .c0
  cases sources : s.cfg.dualSource
  · rw [flushAll_of_single sources, dueFlushes_of_single sources]
    exact first
  · have second := resolves_flushTriggers now (flushTriggers now s .c0) .c1
    rw [dueFlush_c1_flushTriggers_c0] at second
    rw [flushAll_of_dual sources, dueFlushes_of_dual sources]
    exact first.trans second

/-! The edge of a poll (R150, R202). -/

/-- One more symbol fills the buffer exactly where one was missing, of a capacity the length's three bits hold (R9,
R40). -/
theorem full_pushSymbol_iff {cfg : Config} (capBounds : 1 ≤ cfg.maxMorseLength ∧ cfg.maxMorseLength ≤ 7)
    (sym : Symbol) (c : Channel) : full cfg (pushSymbol sym c) = true ↔ c.len.toNat + 1 = cfg.maxMorseLength := by
  have lenLt := c.len.isLt
  have pushedLen : (pushSymbol sym c).len.toNat = (c.len.toNat + 1) % 8 := by simp [pushSymbol]
  rw [full_iff, pushedLen]
  omega

/-- The code word the append that reaches capacity resolves (R202). -/
def capFlush (k : Chan) (sym : Symbol) (s : State) : List (Chan × CodeWord) :=
  if (s.ch k).len.toNat + 1 = s.cfg.maxMorseLength then [(k, bufferCode (pushSymbol sym (s.ch k)))] else []

theorem resolves_append {s : State} (capBounds : 1 ≤ s.cfg.maxMorseLength ∧ s.cfg.maxMorseLength ≤ 7) (k : Chan)
    (sym : Symbol) : Resolves s (append k sym s) (capFlush k sym s) := by
  have reaches := full_pushSymbol_iff capBounds sym (s.ch k)
  have pushed : Resolves s (s.setCh k (pushSymbol sym (s.ch k))) [] := .nil (by simp) (by simp) (by simp) (by simp)
  unfold capFlush
  rcases append_cases k sym s with ⟨atCap, rejected⟩ | ⟨-, isFull, flushed⟩ | ⟨-, notFull, below⟩
  · rw [full_iff] at atCap
    rw [rejected, if_neg (by omega)]
    exact .nil rfl rfl rfl rfl
  · rw [flushed, if_pos (reaches.1 isFull)]
    simpa using pushed.trans (resolves_flush k _)
  · rw [below, if_neg (by simpa [notFull] using reaches)]
    exact pushed

/-- The first half of a poll writes neither the pulse's start nor the buffer (R150, R156). -/
theorem acceptEdge_buffer (cfg : Config) (now : Nat) (x : Sample) (c : Channel) :
    (acceptEdge cfg now x c).1.start = c.start ∧ (acceptEdge cfg now x c).1.len = c.len ∧
    (acceptEdge cfg now x c).1.buf = c.buf := by
  obtain ⟨-, -, startEq, -, -, -, lenEq, bufEq⟩ := condition_edges cfg x c
  unfold acceptEdge
  rcases transition_cases cfg now (condition cfg x c).2 (condition cfg x c).1 with ⟨noEdge, -⟩ | ⟨edge, -, -⟩
  · rw [noEdge]; exact ⟨startEq, lenEq, bufEq⟩
  · rw [edge]; exact ⟨startEq, lenEq, bufEq⟩

/-- The code word the edge of a poll of channel `k` resolves: that of a buffer its symbol fills (R202, R207). -/
def edgeFlush (k : Chan) (x : Sample) (s : State) : List (Chan × CodeWord) :=
  if (acceptEdge s.cfg s.now x (s.ch k)).2 = .fall
  then capFlush k (classifyDuration s.cfg (subT s.cfg.timeW s.now (s.ch k).start)) s else []

/-- An append to a channel whose buffer is that of `s` resolves what an append to `s` does. -/
theorem resolves_append_setCh {s : State} {k : Chan} {c : Channel}
    (capBounds : 1 ≤ s.cfg.maxMorseLength ∧ s.cfg.maxMorseLength ≤ 7) (lenEq : c.len = (s.ch k).len)
    (bufEq : c.buf = (s.ch k).buf) (sym : Symbol) : Resolves s (append k sym (s.setCh k c)) (capFlush k sym s) := by
  have written : Resolves s (s.setCh k c) [] := .nil (by simp) (by simp) (by simp) (by simp)
  have appended := resolves_append (s := s.setCh k c) (by simpa using capBounds) k sym
  have sameFlush : capFlush k sym (s.setCh k c) = capFlush k sym s := by
    simp [capFlush, bufferCode, pushSymbol, lenEq, bufEq]
  rw [sameFlush] at appended
  exact written.trans appended

theorem resolves_afterEdge {s : State} (valid : s.cfg.valid = true) (k : Chan) (x : Sample) :
    Resolves s (afterEdge k x s) (edgeFlush k x s) := by
  obtain ⟨-, -, -, -, capBounds, -⟩ := (config_valid_iff s.cfg).1 valid
  obtain ⟨startEq, lenEq, bufEq⟩ := acceptEdge_buffer s.cfg s.now x (s.ch k)
  unfold afterEdge edgeFlush
  cases (acceptEdge s.cfg s.now x (s.ch k)).2 with
  | none => exact .nil (by simp [handleEdge]) (by simp [handleEdge]) (by simp [handleEdge]) (by simp [handleEdge])
  | rise =>
    exact .nil (by simp [handleEdge, pulseStart]) (by simp [handleEdge, pulseStart])
      (by simp [handleEdge, pulseStart]) (by simp [handleEdge, pulseStart])
  | fall =>
    simp only [handleEdge, pulseEnd, State.ch_setCh_self, State.setCh_setCh, State.setCh_cfg, startEq, if_true]
    refine resolves_append_setCh capBounds ?_ ?_ _
    · exact lenEq
    · exact bufEq

/-! The whole poll (R207). -/

theorem pollFlushes_eq (k : Chan) (x : Sample) (s : State) :
    pollFlushes k x s = edgeFlush k x s ++ dueFlushes s.now (afterEdge k x s) := by
  rw [pollFlushes, dueFlushes, edgeFlush, capFlush, afterEdge_cfg, ite_and]

theorem resolves_poll {s : State} (valid : s.cfg.valid = true) (k : Chan) (x : Sample) :
    Resolves s (poll k x s) (pollFlushes k x s) := by
  rw [pollFlushes_eq]
  exact (resolves_afterEdge valid k x).trans (resolves_flushAll s.now (afterEdge k x s))

/-- The edge of a poll resolves nothing, or one code word of its channel, whose buffer it then leaves empty (R202,
R203). -/
theorem edgeFlush_cases {s : State} (valid : s.cfg.valid = true) (k : Chan) (x : Sample) :
    edgeFlush k x s = [] ∨ ∃ w, edgeFlush k x s = [(k, w)] ∧ ((afterEdge k x s).ch k).len = 0 := by
  obtain ⟨-, -, -, -, ⟨-, capLe⟩, -⟩ := (config_valid_iff s.cfg).1 valid
  obtain ⟨-, lenEq, -⟩ := acceptEdge_buffer s.cfg s.now x (s.ch k)
  unfold edgeFlush capFlush
  split
  case isFalse => exact .inl rfl
  split
  case isFalse => exact .inl rfl
  rename_i fall reaching
  refine .inr ⟨_, rfl, ?_⟩
  simp only [afterEdge, fall, handleEdge, pulseEnd, State.ch_setCh_self, State.setCh_setCh]
  rw [append_of_reaching (by simpa using capLe) (by simpa [lenEq] using reaching), flush_ch_self]

/-- A channel with an empty buffer is not due (R204 to R206). -/
theorem empty_notDue {s : State} {j : Chan} (now : Nat) (valid : s.cfg.valid = true) (empty : (s.ch j).len = 0) :
    flushDue now j s = false := by
  obtain ⟨-, -, -, -, ⟨capPos, -⟩, -⟩ := (config_valid_iff s.cfg).1 valid
  have lenZero : (s.ch j).len.toNat = 0 := by simp [empty]
  rw [Bool.eq_false_iff, ne_eq, flushDue_iff]
  omega

theorem dueFlush_length_le (now : Nat) (s : State) (j : Chan) : (dueFlush now s j).length ≤ 1 := by
  unfold dueFlush
  split <;> simp

/-- No channel is flushed twice in one poll, and none that the configuration lacks: a buffer that its symbol filled is
empty when its triggers come (R204, R207). -/
theorem pollFlushes_filter_length_le {s : State} {k : Chan} (valid : s.cfg.valid = true)
    (hasK : s.cfg.hasChannel k = true) (x : Sample) (j : Chan) :
    ((pollFlushes k x s).filter (fun f => f.1 = j)).length ≤ if s.cfg.hasChannel j then 1 else 0 := by
  have byTriggers : (if s.cfg.hasChannel j then dueFlush s.now (afterEdge k x s) j else []).length ≤
      if s.cfg.hasChannel j then 1 else 0 := by
    split
    · exact dueFlush_length_le s.now (afterEdge k x s) j
    · exact Nat.le_refl 0
  rw [pollFlushes_eq, List.filter_append, dueFlushes_filter, afterEdge_cfg]
  rcases edgeFlush_cases valid k x with noFlush | ⟨w, flushed, empty⟩
  · rwa [noFlush, List.filter_nil, List.nil_append]
  by_cases own : k = j
  · subst own
    have notDue := empty_notDue s.now (by rwa [afterEdge_cfg]) empty
    simp [flushed, hasK, dueFlush, notDue]
  · rwa [flushed, List.filter_eq_nil_iff.2 (by simpa using own), List.nil_append]

/-- A poll flushes at most as many channels as the configuration has (R10, R207). -/
theorem pollFlushes_length_le {s : State} {k : Chan} (valid : s.cfg.valid = true)
    (hasK : s.cfg.hasChannel k = true) (x : Sample) :
    (pollFlushes k x s).length ≤ if s.cfg.dualSource then 2 else 1 := by
  have of0 : ((pollFlushes k x s).filter (fun f => f.1 = .c0)).length ≤ 1 :=
    pollFlushes_filter_length_le valid hasK x .c0
  have of1 : ((pollFlushes k x s).filter (fun f => f.1 = .c1)).length ≤ if s.cfg.dualSource then 1 else 0 :=
    pollFlushes_filter_length_le valid hasK x .c1
  have notC0 : (pollFlushes k x s).filter (fun f => !decide (f.1 = .c0)) =
      (pollFlushes k x s).filter (fun f => f.1 = .c1) :=
    List.filter_congr fun f _ => by cases f.1 <;> rfl
  rw [List.length_eq_length_filter_add (fun f => decide (f.1 = .c0)), notC0]
  by_cases dual : s.cfg.dualSource = true
  · rw [if_pos dual] at of1 ⊢
    omega
  · rw [if_neg dual] at of1 ⊢
    omega

/-- Settles O49: a poll resolves the code words of `pollFlushes`, one a channel; held or illegal it resolves none. -/
theorem aPollEmitsAtMostOneEventPerChannel : Obligations.APollEmitsAtMostOneEventPerChannel := by
  unfold Obligations.APollEmitsAtMostOneEventPerChannel
  intro s k x valid
  rcases execRxs_cases k x s with ⟨busy, held⟩ | ⟨idle, lacking, illegal⟩ | ⟨idle, wf, polled⟩
  · exact ⟨s, [], held, by simp [busy]⟩
  · exact ⟨s.raiseIll, [], illegal, by simp [lacking]⟩
  · obtain ⟨hasK, -⟩ := (rxs_wf_iff s.cfg k x).1 wf
    have resolved := resolves_poll valid k x
    have onePerChannel : ∀ j, ((pollFlushes k x s).filter (fun f => f.1 = j)).length ≤ 1 := fun j =>
      (pollFlushes_filter_length_le valid hasK x j).trans (by split <;> simp)
    refine ⟨poll k x s, resolvedEvents s.cfg (pollFlushes k x s), polled, resolved.out, resolved.charPort, ?_,
      fun j => ?_, fun heldOrLacking => ?_, fun _ _ => ⟨rfl, onePerChannel, resolved.decMiss⟩⟩
    · exact (resolvedEvents_length_le _ _).trans (pollFlushes_length_le valid hasK x)
    · rw [resolvedEvents_filter]
      exact (resolvedEvents_length_le _ _).trans (onePerChannel j)
    · simp [idle, wf] at heldOrLacking

end Sys2Proof.Machine

/-!
PROOFS. The transmitter, one command and one millisecond at a time: the hold while it is busy (R238), TXC (R232), what a
TICK does in each phase (R233 to R237), and how long a character takes (R230).
-/

namespace Sys2Proof.Machine

/-! The hold (R238). -/

/-- `CMD_READY` is the opposite of `TX_BUSY` (R49, R291). -/
theorem cmdReady_iff_not_busy (s : State) : s.cmdReady = true ↔ s.busy = false := by
  simp [State.cmdReady, State.busy]

/-- A host step while the transmitter is busy changes nothing, with or without a word at the port. -/
theorem hostStep_of_busy {s : State} (released : s.rst = false) (busy : s.busy = true) : hostStep s = .next s := by
  cases port : s.port <;> simp [hostStep, released, port, busy, State.hold]

theorem exec_of_busy {s : State} {i : Instr} (command : i ≠ .tick) (busy : s.busy = true) : exec i s = .next s := by
  cases i with
  | nop => rw [exec, execNop, whenReady_of_busy busy]
  | rxs k x => exact exec_rxs_of_busy busy k x
  | txc c => rw [exec, execTxc, whenReady_of_busy busy]
  | tick => exact absurd rfl command

/-- Settles O8: neither a host step nor a command writes a register while the transmitter is busy. -/
theorem aWordIsHeldWhileTheTransmitterIsBusy : Obligations.AWordIsHeldWhileTheTransmitterIsBusy := by
  unfold Obligations.AWordIsHeldWhileTheTransmitterIsBusy
  refine ⟨fun s rest running busy => ?_, fun s i => exec_of_busy⟩
  have ⟨_, released, _⟩ := running
  calc step s = hostStep (s.beginStep rest) := step_of_running running
    _ = .next (s.beginStep rest) := hostStep_of_busy (s := s.beginStep rest) released busy

/-! One millisecond of a segment (R233, R234). -/

theorem txTick_of_idle (cfg : Config) {t : Transmitter} (idle : t.phase = .idle) : txTick cfg t = t := by
  simp [txTick, idle]

theorem txTick_of_counting (cfg : Config) {t : Transmitter} (busy : t.phase ≠ .idle) (counting : 1 < t.cnt) :
    txTick cfg t = { t with cnt := t.cnt - 1 } := by
  have notOver : t.cnt - 1 ≠ 0 := by omega
  cases phase : t.phase <;> simp_all [txTick]

theorem txTick_of_last (cfg : Config) {t : Transmitter} (busy : t.phase ≠ .idle) (last : t.cnt = 1) :
    txTick cfg t = segmentEnd cfg { t with cnt := 0 } := by
  cases phase : t.phase <;> simp_all [txTick]

/-- A TICK writes `NOW` and the transmit registers (R260). -/
theorem exec_tick (s : State) :
    exec .tick s = .next { s with now := (s.now + 1) % 2 ^ s.cfg.timeW, tx := txTick s.cfg s.tx } := rfl

/-- Settles O18: `tx_tick` returns at once in `IDLE`, and with more than 1 ms left only counts down. -/
theorem tickCountsTheSegmentDown : Obligations.TickCountsTheSegmentDown := by
  unfold Obligations.TickCountsTheSegmentDown
  refine fun s => ⟨fun idle => ?_, fun busy counting => ?_⟩
  · rw [exec_tick, txTick_of_idle s.cfg idle]
  · rw [exec_tick, txTick_of_counting s.cfg busy counting]

/-- Settles O19: the segment end of a mark overwrites the count that ran out. -/
theorem aMarkEndsInTheSymbolGap : Obligations.AMarkEndsInTheSymbolGap := by
  unfold Obligations.AMarkEndsInTheSymbolGap
  intro s mark last
  rw [exec_tick, txTick_of_last s.cfg (by simp [mark]) last]
  simp [segmentEnd, mark, endMark]

/-- Settles O20: the three branches are those of `endSymgap`. -/
theorem aSymbolGapEndsInTheNextSegment : Obligations.ASymbolGapEndsInTheNextSegment := by
  unfold Obligations.ASymbolGapEndsInTheNextSegment
  intro s symgap last
  rw [exec_tick, txTick_of_last s.cfg (by simp [symgap]) last]
  simp [segmentEnd, symgap, endSymgap, markLength]

/-- Settles O21: in the gap the line is low by the invariant, and its end only writes the phase. -/
theorem aLetterGapEndsInIdle : Obligations.ALetterGapEndsInIdle := by
  unfold Obligations.ALetterGapEndsInIdle
  intro s lgap last
  refine ⟨_, ?_, rfl, rfl, fun inv => ⟨?_, rfl⟩⟩
  · rw [exec_tick, txTick_of_last s.cfg (by simp [lgap]) last]
    simp [segmentEnd, lgap, endLgap]
  · simpa [lgap] using inv.highIffMark

/-! TXC (R232). -/

/-- What TXC does while the transmitter is idle: a byte without a code is counted, one with a code starts its first mark. -/
def State.sent (c : Byte) (s : State) : State :=
  match encodeChar s.cfg.codeTable c with
  | none => s.countEncMiss
  | some w => s.setTx (startCharacter s.cfg w)

theorem exec_txc (c : Byte) (s : State) : exec (.txc c) s = whenReady s (State.sent c) := rfl

theorem exec_txc_of_idle {s : State} (idle : s.busy = false) (c : Byte) : exec (.txc c) s = .next (s.sent c) := by
  rw [exec_txc, whenReady_of_idle idle]

theorem sent_of_unmapped {s : State} {c : Byte} (unmapped : encodeChar s.cfg.codeTable c = none) :
    s.sent c = s.countEncMiss := by
  simp [State.sent, unmapped]

theorem sent_of_mapped {s : State} {c : Byte} {w : CodeWord} (mapped : encodeChar s.cfg.codeTable c = some w) :
    s.sent c = s.setTx (startCharacter s.cfg w) := by
  simp [State.sent, mapped]

/-- The lookup reads a byte's normalised form alone (R133). -/
theorem encodeChar_congr (t : List CodeEntry) {c d : Byte} (same : normalise c = normalise d) :
    encodeChar t c = encodeChar t d := by
  rw [encodeChar, encodeChar, same]

/-- A lowercase letter's uppercase form, which subtracting 0x20 gives, is its own normalised form (R133, D29). -/
theorem normalise_uppercase {c : Byte} (lower : 0x61 ≤ c ∧ c ≤ 0x7A) : normalise (c - 0x20) = normalise c := by
  have letter : normalise c ∈ alphabet := (normalise_mem_alphabet_iff c).2 (.inr (.inl lower))
  have uppercase : c - 0x20 = normalise c := (normalise_of_lowercase lower).symm
  rw [uppercase, normalise_of_mem_alphabet letter]

/-- R133: a space has no code. -/
theorem encodeChar_space {cfg : Config} (valid : cfg.valid = true) : encodeChar cfg.codeTable 0x20 = none := by
  obtain ⟨chars, -⟩ := (codeTableOk_iff cfg.codeTable).1 (codeTableOk_of_valid valid)
  rw [encodeChar_eq_none_iff chars, normalise_mem_alphabet_iff]
  decide

/-- Settles O22: each clause is a branch of the lookup, or the hold; the rule's example is computed. -/
theorem txcStartsTheFirstMarkOrCountsAMiss : Obligations.TxcStartsTheFirstMarkOrCountsAMiss := by
  unfold Obligations.TxcStartsTheFirstMarkOrCountsAMiss
  refine ⟨fun s c idle unmapped => ?_, fun s c w idle mapped => ?_, fun s c => exec_of_busy (by simp),
    fun s c low high => ?_, fun s => encodeChar_space, rfl⟩
  · rw [exec_txc_of_idle idle, sent_of_unmapped unmapped, State.countEncMiss]
  · rw [exec_txc_of_idle idle, sent_of_mapped mapped, startCharacter, markLength, State.setTx]
  · have sameSent : State.sent c = State.sent (c - 0x20) := by
      funext s
      rw [State.sent, State.sent, encodeChar_congr _ (normalise_uppercase ⟨low, high⟩).symm]
    rw [exec_txc, exec_txc, sameSent]

/-! The segments of a character (R230). -/

@[simp] theorem totalLength_nil : totalLength [] = 0 := rfl

@[simp] theorem totalLength_cons (seg : Bool × Nat) (segs : List (Bool × Nat)) :
    totalLength (seg :: segs) = seg.2 + totalLength segs := by
  simp [totalLength]

/-- Marks, each with a gap of the same length after it. -/
theorem totalLength_flatMap_marks {ι : Type} (mark : ι → Nat) (gap : Nat) (is : List ι) :
    totalLength (is.flatMap fun i => [(true, mark i), (false, gap)]) = (is.map mark).sum + is.length * gap := by
  induction is with
  | nil => simp
  | cons i is ih =>
    rw [List.flatMap_cons, totalLength_append, ih]
    simp [Nat.add_mul]
    omega

/-- Settles O24: the symbols' marks and gaps, and the inter-letter gap, which adds nothing where there is none. -/
theorem theLengthOfACharacter : Obligations.TheLengthOfACharacter := by
  unfold Obligations.TheLengthOfACharacter
  intro cfg w
  have letterGap : totalLength (if 0 < cfg.charGapMs then [(false, cfg.charGapMs)] else []) = cfg.charGapMs := by
    split
    · simp
    · simp; omega
  rw [segments, totalLength_append, totalLength_flatMap_marks, letterGap, List.length_range]
  rfl

end Sys2Proof.Machine

/-!
PROOFS. What the transmitter has still to play, as segments: one millisecond of the registers is one millisecond of the
segments (R239), so a character plays its own.
-/

namespace Sys2Proof.Machine

/-! One millisecond of segments laid end to end. -/

/-- The segments with their first millisecond played. -/
def advance : List (Bool × Nat) → List (Bool × Nat)
  | [] => []
  | seg :: rest => if 1 < seg.2 then (seg.1, seg.2 - 1) :: rest else rest

/-- Every segment lasts at least 1 ms. -/
def Lasting (segs : List (Bool × Nat)) : Prop := ∀ seg ∈ segs, 0 < seg.2

theorem advance_append {a : List (Bool × Nat)} (nonempty : a ≠ []) (b : List (Bool × Nat)) :
    advance (a ++ b) = advance a ++ b := by
  cases a with
  | nil => exact absurd rfl nonempty
  | cons seg rest =>
    simp only [List.cons_append, advance]
    split <;> rfl

theorem Lasting.advance {segs : List (Bool × Nat)} (lasting : Lasting segs) : Lasting (advance segs) := by
  cases segs with
  | nil => exact lasting
  | cons seg rest =>
    obtain ⟨-, restLasts⟩ := List.forall_mem_cons.1 lasting
    rw [Machine.advance]
    split
    · exact List.forall_mem_cons.2 ⟨by simp only; omega, restLasts⟩
    · exact restLasts

theorem totalLength_advance {segs : List (Bool × Nat)} (lasting : Lasting segs) :
    totalLength (advance segs) = totalLength segs - 1 := by
  cases segs with
  | nil => rfl
  | cons seg rest =>
    have first := lasting seg List.mem_cons_self
    rw [advance, totalLength_cons]
    split
    · rw [totalLength_cons]
      omega
    · omega

theorem levelAt_advance {segs : List (Bool × Nat)} (lasting : Lasting segs) (n : Nat) :
    levelAt (advance segs) n = levelAt segs (n + 1) := by
  cases segs with
  | nil => rfl
  | cons seg rest =>
    have first := lasting seg List.mem_cons_self
    rw [advance, levelAt]
    split
    case isTrue goesOn =>
      have sameTest : n < seg.2 - 1 ↔ n + 1 < seg.2 := by omega
      have sameRest : n - (seg.2 - 1) = n + 1 - seg.2 := by omega
      simp only [levelAt, sameTest, sameRest]
    case isFalse ends =>
      rw [if_neg (by omega), show n + 1 - seg.2 = n by omega]

theorem levelAt_iterate_advance {segs : List (Bool × Nat)} (lasting : Lasting segs) (n : Nat) :
    levelAt (advance^[n] segs) 0 = levelAt segs n := by
  suffices ∀ m, levelAt (advance^[n] segs) m = levelAt segs (m + n) by simpa using this 0
  induction n generalizing segs with
  | zero => exact fun m => rfl
  | succ n ih =>
    intro m
    rw [Function.iterate_succ_apply, ih lasting.advance, levelAt_advance lasting, Nat.add_assoc]

theorem iterate_advance_eq_nil_iff {segs : List (Bool × Nat)} (lasting : Lasting segs) (n : Nat) :
    advance^[n] segs = [] ↔ totalLength segs ≤ n := by
  induction n generalizing segs with
  | zero =>
    cases segs with
    | nil => simp
    | cons seg rest =>
      have first := lasting seg List.mem_cons_self
      simp
      omega
  | succ n ih =>
    rw [Function.iterate_succ_apply, ih lasting.advance, totalLength_advance lasting]
    omega

/-! The segments of a character from one of its symbols on. -/

/-- The segments of a code from symbol `i` on, the inter-letter gap among them (R230). -/
def segmentsFrom (cfg : Config) (w : CodeWord) (i : Nat) : List (Bool × Nat) :=
  (List.range' i (w.len.toNat - i)).flatMap (fun i => [(true, markLength cfg w.bits i), (false, cfg.dotLength)])
    ++ (if 0 < cfg.charGapMs then [(false, cfg.charGapMs)] else [])

theorem segmentsFrom_zero (cfg : Config) (w : CodeWord) : segmentsFrom cfg w 0 = segments cfg w := by
  rw [segmentsFrom, segments, List.range_eq_range', Nat.sub_zero]

theorem segmentsFrom_of_lt (cfg : Config) {w : CodeWord} {i : Nat} (symbol : i < w.len.toNat) :
    segmentsFrom cfg w i =
      (true, markLength cfg w.bits i) :: (false, cfg.dotLength) :: segmentsFrom cfg w (i + 1) := by
  have count : w.len.toNat - i = w.len.toNat - (i + 1) + 1 := by omega
  rw [segmentsFrom, count, List.range'_succ, List.flatMap_cons]
  rfl

theorem segmentsFrom_of_le (cfg : Config) {w : CodeWord} {i : Nat} (past : w.len.toNat ≤ i) :
    segmentsFrom cfg w i = if 0 < cfg.charGapMs then [(false, cfg.charGapMs)] else [] := by
  simp [segmentsFrom, Nat.sub_eq_zero_of_le past]

theorem lasting_segments {cfg : Config} (valid : cfg.valid = true) (w : CodeWord) : Lasting (segments cfg w) := by
  obtain ⟨-, -, ⟨dotPos, -⟩, -⟩ := (config_valid_iff cfg).1 valid
  intro seg mem
  rcases List.mem_append.1 mem with ofSymbol | ofGap
  · obtain ⟨i, -, isPart⟩ := List.mem_flatMap.1 ofSymbol
    have markPos := (markLength_bounds valid w.bits i).1
    rcases (by simpa using isPart) with rfl | rfl
    · exact markPos
    · exact dotPos
  · split at ofGap
    case isTrue gapPos =>
      obtain rfl := List.mem_singleton.1 ofGap
      exact gapPos
    case isFalse => simp at ofGap

/-! What the registers have still to play. -/

/-- The rest of the current segment and the segments after it. -/
def remaining (cfg : Config) (t : Transmitter) : List (Bool × Nat) :=
  match t.phase with
  | .idle => []
  | .mark => (true, t.cnt) :: (false, cfg.dotLength) :: segmentsFrom cfg ⟨t.len, t.bits⟩ (t.idx.toNat + 1)
  | .symgap => (false, t.cnt) :: segmentsFrom cfg ⟨t.len, t.bits⟩ (t.idx.toNat + 1)
  | .lgap => [(false, t.cnt)]

theorem remaining_of_idle (cfg : Config) {t : Transmitter} (idle : t.phase = .idle) : remaining cfg t = [] := by
  simp [remaining, idle]

/-- The current segment is high in a mark alone and lasts as long as the count says (R45, R46). -/
theorem remaining_of_busy (cfg : Config) {t : Transmitter} (busy : t.phase ≠ .idle) (n : Nat) :
    remaining cfg { t with cnt := n } = (decide (t.phase = .mark), n) :: (remaining cfg t).tail := by
  cases phase : t.phase <;> simp_all [remaining]

theorem remaining_eq_nil_iff (cfg : Config) (t : Transmitter) : remaining cfg t = [] ↔ t.phase = .idle := by
  refine ⟨fun done => by_contra fun busy => ?_, remaining_of_idle cfg⟩
  have current := remaining_of_busy cfg busy t.cnt
  simp [done] at current

theorem remaining_startCharacter (cfg : Config) {w : CodeWord} (nonempty : 1 ≤ w.len.toNat) :
    remaining cfg (startCharacter cfg w) = segments cfg w := by
  rw [← segmentsFrom_zero, segmentsFrom_of_lt cfg nonempty]
  rfl

/-- A segment's end goes on to the next one (R234 to R237). -/
theorem remaining_segmentEnd (cfg : Config) (t : Transmitter) :
    remaining cfg (segmentEnd cfg t) = (remaining cfg t).tail := by
  cases phase : t.phase with
  | idle => simp [segmentEnd, remaining, phase]
  | mark => simp [segmentEnd, remaining, phase, endMark]
  | lgap => simp [segmentEnd, remaining, phase, endLgap]
  | symgap =>
    simp only [segmentEnd, phase, endSymgap]
    by_cases another : t.idx.toNat + 1 < t.len.toNat
    · have noWrap : (t.idx.toNat + 1) % 8 = t.idx.toNat + 1 := Nat.mod_eq_of_lt (another.trans t.len.isLt)
      simp [another, remaining, phase, noWrap, segmentsFrom_of_lt cfg (w := ⟨t.len, t.bits⟩) another]
    · have past := segmentsFrom_of_le cfg (w := ⟨t.len, t.bits⟩) (Nat.le_of_not_lt another)
      simp only [another, if_false]
      split <;> simp_all [remaining]

/-- One millisecond of the registers is one of the segments (R233). -/
theorem remaining_txTick {cfg : Config} {t : Transmitter} (inv : TxInv cfg t) :
    remaining cfg (txTick cfg t) = advance (remaining cfg t) := by
  by_cases idle : t.phase = .idle
  · rw [txTick_of_idle cfg idle, remaining_of_idle cfg idle, advance]
  have countPos : t.cnt ≠ 0 := fun zero => idle (inv.idleIffZero.2 zero)
  have current := remaining_of_busy cfg idle t.cnt
  rw [current, advance]
  split
  case isTrue counting => rw [txTick_of_counting cfg idle counting, remaining_of_busy cfg idle]
  case isFalse ends =>
    rw [txTick_of_last cfg idle (by simp only at ends; omega), remaining_segmentEnd, remaining_of_busy cfg idle,
      List.tail_cons]

/-- The line is the level of the segment being played, and low in `IDLE` (R46, R239). -/
theorem out_eq_levelAt {cfg : Config} {t : Transmitter} (inv : TxInv cfg t) {later : List (Bool × Nat)}
    (atRest : t.phase = .idle → later = []) : t.out = levelAt (remaining cfg t ++ later) 0 := by
  by_cases idle : t.phase = .idle
  · rw [atRest idle, remaining_of_idle cfg idle]
    simpa [idle, levelAt] using inv.highIffMark
  have countPos : 0 < t.cnt := Nat.pos_of_ne_zero fun zero => idle (inv.idleIffZero.2 zero)
  have current := remaining_of_busy cfg idle t.cnt
  rw [current, List.cons_append, levelAt, if_pos countPos, Bool.eq_iff_iff, inv.highIffMark, decide_eq_true_iff]

/-! A string in progress. -/

theorem playedSegments_of_unmapped {cfg : Config} {c : Byte} (unmapped : encodeChar cfg.codeTable c = none) :
    playedSegments cfg c = [] := by
  simp [playedSegments, unmapped]

theorem playedSegments_of_mapped {cfg : Config} {c : Byte} {w : CodeWord}
    (mapped : encodeChar cfg.codeTable c = some w) : playedSegments cfg c = segments cfg w := by
  simp [playedSegments, mapped]

theorem lasting_playedSegments {cfg : Config} (valid : cfg.valid = true) (cs : List Byte) :
    Lasting (cs.flatMap (playedSegments cfg)) := by
  intro seg mem
  obtain ⟨c, -, played⟩ := List.mem_flatMap.1 mem
  cases mapped : encodeChar cfg.codeTable c with
  | none => simp [playedSegments_of_unmapped mapped] at played
  | some w =>
    rw [playedSegments_of_mapped mapped] at played
    exact lasting_segments valid w seg played

/-- The bytes of a string that have no code (R133). -/
def unmappedCount (cfg : Config) (cs : List Byte) : Nat := cs.countP (fun c => (encodeChar cfg.codeTable c).isNone)

theorem unmappedCount_append (cfg : Config) (a b : List Byte) :
    unmappedCount cfg (a ++ b) = unmappedCount cfg a + unmappedCount cfg b := List.countP_append

theorem unmappedCount_cons_of_unmapped {cfg : Config} {c : Byte} (unmapped : encodeChar cfg.codeTable c = none)
    (cs : List Byte) : unmappedCount cfg (c :: cs) = unmappedCount cfg cs + 1 := by
  simp [unmappedCount, unmapped]

theorem unmappedCount_cons_of_mapped {cfg : Config} {c : Byte} {w : CodeWord}
    (mapped : encodeChar cfg.codeTable c = some w) (cs : List Byte) :
    unmappedCount cfg (c :: cs) = unmappedCount cfg cs := by
  simp [unmappedCount, mapped]

/-- `n` ms into the string `cs`, begun at `s`, the registers are `v` and the bytes `waiting` are still to be taken: what
they have to play is what `n` ms leave of the string's segments. -/
structure InProgress (s : State) (cs : List Byte) (n : Nat) (v : State) (waiting : List Byte) : Prop where
  frame : v = { s with now := (s.now + n) % 2 ^ s.cfg.timeW, tx := v.tx, encMiss := v.encMiss }
  tx : TxInv s.cfg v.tx
  plays : remaining s.cfg v.tx ++ waiting.flatMap (playedSegments s.cfg)
    = advance^[n] (cs.flatMap (playedSegments s.cfg))
  misses : v.encMiss + BitVec.ofNat 16 (unmappedCount s.cfg waiting)
    = s.encMiss + BitVec.ofNat 16 (unmappedCount s.cfg cs)

/-- The same after the host offered what waits: a byte waits only while the transmitter is busy (R238). -/
structure Playing (s : State) (cs : List Byte) (n : Nat) (v : State) (waiting : List Byte) : Prop
    extends InProgress s cs n v waiting where
  held : v.busy = false → waiting = []

section
variable {s v : State} {cs waiting : List Byte} {n : Nat}

theorem InProgress.cfg_eq (progress : InProgress s cs n v waiting) : v.cfg = s.cfg := by rw [progress.frame]

theorem InProgress.rst_eq (progress : InProgress s cs n v waiting) : v.rst = s.rst := by rw [progress.frame]

theorem Playing.later_of_idle (playing : Playing s cs n v waiting) (idle : v.tx.phase = .idle) :
    waiting.flatMap (playedSegments s.cfg) = [] := by
  rw [playing.held ((busy_eq_false_iff v).2 idle), List.flatMap_nil]

theorem Playing.out (playing : Playing s cs n v waiting) (valid : s.cfg.valid = true) :
    v.tx.out = levelAt (cs.flatMap (playedSegments s.cfg)) n := by
  rw [out_eq_levelAt playing.tx playing.later_of_idle, playing.plays,
    levelAt_iterate_advance (lasting_playedSegments valid cs)]

/-- The port is ready from the string's total length on. -/
theorem Playing.cmdReady_iff (playing : Playing s cs n v waiting) (valid : s.cfg.valid = true) :
    v.cmdReady = true ↔ totalLength (cs.flatMap (playedSegments s.cfg)) ≤ n := by
  rw [← iterate_advance_eq_nil_iff (lasting_playedSegments valid cs), ← playing.plays, List.append_eq_nil_iff,
    remaining_eq_nil_iff, cmdReady_iff_not_busy, busy_eq_false_iff]
  exact ⟨fun idle => ⟨idle, playing.later_of_idle idle⟩, fun done => done.1⟩

/-- A TICK plays one millisecond more (R233, R260). -/
theorem Playing.tick (playing : Playing s cs n v waiting) (valid : s.cfg.valid = true) :
    InProgress s cs (n + 1) (tick v) waiting := by
  have cfgEq := playing.cfg_eq
  have txEq : (Machine.tick v).tx = txTick s.cfg v.tx := by rw [← cfgEq]; rfl
  refine ⟨?_, ?_, ?_, playing.misses⟩
  · have nextNow : addT s.cfg.timeW ((s.now + n) % 2 ^ s.cfg.timeW) 1 = (s.now + (n + 1)) % 2 ^ s.cfg.timeW := by
      rw [addT, Nat.mod_add_mod, Nat.add_assoc]
    rw [← nextNow, playing.frame]
    rfl
  · rw [txEq]
    exact txInv_txTick valid playing.tx
  · rw [txEq, remaining_txTick playing.tx, Function.iterate_succ_apply', ← playing.plays]
    by_cases idle : v.tx.phase = .idle
    · rw [playing.later_of_idle idle, List.append_nil, List.append_nil]
    · rw [advance_append (mt (remaining_eq_nil_iff s.cfg v.tx).1 idle)]

end

/-! One character (R239, R261). -/

/-- A mapped byte's TXC is the start of the string of that byte, whatever the registers of an idle transmitter. -/
theorem playing_startCharacter {s : State} {c : Byte} {w : CodeWord} (valid : s.cfg.valid = true)
    (inRange : s.now < 2 ^ s.cfg.timeW) (mapped : encodeChar s.cfg.codeTable c = some w) :
    Playing s [c] 0 (s.setTx (startCharacter s.cfg w)) [] := by
  have codeLen := encodeChar_len (codeTableOk_of_valid valid) mapped
  refine ⟨⟨?_, txInv_startCharacter valid codeLen, ?_, ?_⟩, fun _ => rfl⟩
  · simp [State.setTx, Nat.mod_eq_of_lt inRange]
  · simp [remaining_startCharacter s.cfg codeLen.1, playedSegments_of_mapped mapped]
  · rw [unmappedCount_cons_of_mapped mapped]; rfl

theorem Playing.runInstrs_ticks {s v : State} {cs : List Byte} {k : Nat} (playing : Playing s cs k v [])
    (valid : s.cfg.valid = true) (n : Nat) :
    ∃ t, runInstrs (List.replicate n .tick) v = .next t ∧ Playing s cs (k + n) t [] := by
  induction n generalizing k v with
  | zero => exact ⟨v, rfl, playing⟩
  | succ n ih =>
    obtain ⟨t, run, playingT⟩ := ih ⟨playing.tick valid, fun _ => rfl⟩
    exact ⟨t, run, by rwa [Nat.add_right_comm] at playingT⟩

/-- Settles O23: the character is the string of its one byte. -/
theorem aCharacterPlaysItsSegments : Obligations.ACharacterPlaysItsSegments := by
  unfold Obligations.ACharacterPlaysItsSegments
  intro s c w n valid idle inRange mapped withinIt
  obtain ⟨t, run, playing⟩ := (playing_startCharacter valid inRange mapped).runInstrs_ticks valid n
  have segs : [c].flatMap (playedSegments s.cfg) = segments s.cfg w := by simp [playedSegments_of_mapped mapped]
  have out := playing.out valid
  have ready := playing.cmdReady_iff valid
  rw [segs, Nat.zero_add] at out ready
  refine ⟨t, ?_, ?_, out, ready.trans ⟨fun atEnd => Nat.le_antisymm withinIt atEnd, Eq.ge⟩⟩
  · simpa only [runInstrs, exec_txc_of_idle idle, sent_of_mapped mapped] using run
  · rw [playing.frame, Nat.zero_add]

end Sys2Proof.Machine

/-!
PROOFS. A string played by SEND (R112, R240, R241): each act of the host on the registers and the port, the schedule one
instruction at a time, and the whole run.
-/

namespace Sys2Proof.Machine

/-! The acts of the host. -/

/-- The host step that takes a word (R263). -/
theorem hostStep_of_idle {s : State} {w : Word} (released : s.rst = false) (waits : s.port = some w)
    (idle : s.busy = false) : hostStep s = performWord w s.clearPort := by
  simp [hostStep, released, waits, idle]

/-- The registers of `v` with the word `p` and the events `ch` at the ports, and the acts `env` to come. -/
def State.withPorts (v : State) (p : Option Word) (ch : List OutEvent) (env : List EnvStep) : State :=
  { v with port := p, charPort := ch, env := env }

/-- TXC reads and writes nothing at the ports. -/
theorem sent_withPorts (v : State) (c : Byte) (p : Option Word) (ch : List OutEvent) (env : List EnvStep) :
    (v.withPorts p ch env).sent c = (v.sent c).withPorts p ch env := by
  cases mapped : encodeChar v.cfg.codeTable c with
  | none => rw [sent_of_unmapped mapped, sent_of_unmapped (s := v.withPorts p ch env) mapped]; rfl
  | some w => rw [sent_of_mapped mapped, sent_of_mapped (s := v.withPorts p ch env) mapped]; rfl

/-- While the transmitter is idle a TXC word is performed as its TXC (R263). -/
theorem performWord_txcWord {v : State} (idle : v.busy = false) (c : Byte) :
    performWord (txcWord c) v = .next (v.sent c) := by
  have decoded : decodeCmd v.cfg (txcWord c) = .ok (.txc c) := (decodeCmd_eq_ok_iff_wf rfl).2 rfl
  rw [performWord, decoded]
  exact exec_txc_of_idle idle c

/-- The run of a list of acts, and no others, from the registers `v` with `p` and `ch` at the ports. -/
def runActs (acts : List EnvStep) (v : State) (p : Option Word) (ch : List OutEvent) :
    Host.Outcome State Fault Refusal :=
  runSteps acts.length (v.withPorts p ch acts)

section
variable {v : State} (valid : v.cfg.valid = true) (released : v.rst = false)
include valid released

/-- A run goes on from what its first act leaves. -/
theorem runActs_cons {e : EnvStep} {acts : List EnvStep} {v' : State} {p p' : Option Word} (ch : List OutEvent)
    (act : envStep e (v.withPorts p [] acts) = .next (v'.withPorts p' [] acts)) :
    runActs (e :: acts) v p ch = runActs acts v' p' [] := by
  have first : step (v.withPorts p ch (e :: acts)) = .next (v'.withPorts p' [] acts) :=
    (step_of_running (s := v.withPorts p ch (e :: acts)) ⟨valid, released, rfl⟩).trans act
  rw [runActs, List.length_cons, runSteps, first]
  rfl

theorem runActs_clock (acts : List EnvStep) (p : Option Word) (ch : List OutEvent) :
    runActs (.clock :: acts) v p ch = runActs acts (tick v) p [] :=
  runActs_cons valid released ch (clockStep_of_released released)

/-- Presenting a word at an empty port, or again while it waits (R291). -/
theorem runActs_present (acts : List EnvStep) {w : Word} {p : Option Word} (ch : List OutEvent)
    (free : p = none ∨ p = some w) : runActs (.present w :: acts) v p ch = runActs acts v (some w) [] := by
  refine runActs_cons valid released ch ?_
  rcases free with rfl | rfl <;> simp [envStep, presentWord, State.withPorts, released]

theorem runActs_host_of_busy (busy : v.busy = true) (acts : List EnvStep) (p : Option Word) (ch : List OutEvent) :
    runActs (.host :: acts) v p ch = runActs acts v p [] :=
  runActs_cons valid released ch (hostStep_of_busy released busy)

/-- The host step that takes a TXC (R232, R263). -/
theorem runActs_host_of_idle (idle : v.busy = false) (c : Byte) (acts : List EnvStep) (ch : List OutEvent) :
    runActs (.host :: acts) v (some (txcWord c)) ch = runActs acts (v.sent c) none [] := by
  refine runActs_cons valid released ch ?_
  calc hostStep (v.withPorts (some (txcWord c)) [] acts)
    _ = performWord (txcWord c) (v.withPorts none [] acts) :=
      hostStep_of_idle (s := v.withPorts (some (txcWord c)) [] acts) released rfl idle
    _ = .next ((v.sent c).withPorts none [] acts) := by
      rw [performWord_txcWord (v := v.withPorts none [] acts) idle, sent_withPorts]

end

/-! The schedule, one instruction at a time (log 26). -/

/-- The acts for the words `ws`, and then for the instructions `is`. -/
def offerThen (is : List Instr) (ws : List Word) (v : State) : List EnvStep :=
  (offerWords ws v).1 ++ scheduleFrom is (offerWords ws v).2.2 (offerWords ws v).2.1

theorem offerThen_nil (is : List Instr) (v : State) : offerThen is [] v = scheduleFrom is [] v := rfl

theorem offerThen_of_busy {v : State} (busy : v.busy = true) (is : List Instr) (w : Word) (ws : List Word) :
    offerThen is (w :: ws) v = .present w :: .host :: scheduleFrom is (w :: ws) v := by
  rw [offerThen, offerWords_of_busy w ws busy]
  rfl

theorem offerThen_of_idle {v : State} (idle : v.busy = false) (is : List Instr) (c : Byte) (ws : List Word) :
    offerThen is (txcWord c :: ws) v = .present (txcWord c) :: .host :: offerThen is ws (v.sent c) := by
  rw [offerThen, offerWords_of_next ws idle (performWord_txcWord idle c)]
  rfl

theorem scheduleFrom_txc (c : Byte) (is : List Instr) (ws : List Word) (v : State) :
    scheduleFrom (.txc c :: is) ws v = offerThen is (ws ++ [txcWord c]) v :=
  scheduleFrom_command is ws v rfl

theorem scheduleFrom_tick_eq_offerThen (is : List Instr) (ws : List Word) (v : State) :
    scheduleFrom (.tick :: is) ws v = .clock :: offerThen is ws (tick v) :=
  scheduleFrom_tick is ws v

/-- The run of the schedule of `is` with the bytes `waiting` still to be taken, the oldest of them at the port. -/
def runSchedule (is : List Instr) (waiting : List Byte) (v : State) (ch : List OutEvent) :
    Host.Outcome State Fault Refusal :=
  runActs (scheduleFrom is (waiting.map txcWord) v) v (waiting.head?.map txcWord) ch

theorem runProgram_eq_runSchedule {s : State} (noWord : s.port = none) (program : List AsmLine) :
    runProgram program s = runSchedule (program.flatMap AsmLine.expand) [] s s.charPort := by
  rw [runSchedule, runActs, State.withPorts, runProgram, List.head?_nil, Option.map_none, ← noWord]
  rfl

/-! What the acts make of a string in progress. -/

theorem playing_nil {s : State} (idle : s.busy = false) (inv : TxInv s.cfg s.tx) (inRange : s.now < 2 ^ s.cfg.timeW) :
    Playing s [] 0 s [] := by
  refine ⟨⟨?_, inv, ?_, rfl⟩, fun _ => rfl⟩
  · rw [Nat.add_zero, Nat.mod_eq_of_lt inRange]
  · simp [remaining_of_idle s.cfg ((busy_eq_false_iff s).1 idle)]

section
variable {s v : State} {cs waiting : List Byte} {n : Nat}

/-- One byte more of the string waits. -/
theorem InProgress.queue (progress : InProgress s cs 0 v waiting) (c : Byte) :
    InProgress s (cs ++ [c]) 0 v (waiting ++ [c]) := by
  have plays := progress.plays
  refine ⟨progress.frame, progress.tx, ?_, ?_⟩
  · rw [Function.iterate_zero_apply] at plays ⊢
    rw [List.flatMap_append, List.flatMap_append, ← List.append_assoc, plays]
  · rw [unmappedCount_append, unmappedCount_append, BitVec.ofNat_add, BitVec.ofNat_add, ← BitVec.add_assoc,
      ← BitVec.add_assoc, progress.misses]

/-- The oldest byte is taken (R232). -/
theorem InProgress.sent {c : Byte} (progress : InProgress s cs n v (c :: waiting)) (valid : s.cfg.valid = true)
    (idle : v.busy = false) : InProgress s cs n (v.sent c) waiting := by
  have cfgEq := progress.cfg_eq
  have plays := progress.plays
  have misses := progress.misses
  rw [List.flatMap_cons] at plays
  cases mapped : encodeChar s.cfg.codeTable c with
  | none =>
    rw [sent_of_unmapped (cfgEq ▸ mapped)]
    refine ⟨?_, progress.tx, ?_, ?_⟩
    · rw [progress.frame]; rfl
    · rwa [playedSegments_of_unmapped mapped] at plays
    · rw [← misses, unmappedCount_cons_of_unmapped mapped, BitVec.ofNat_add, BitVec.add_comm (BitVec.ofNat 16 _),
        ← BitVec.add_assoc]
      rfl
  | some w =>
    have codeLen := encodeChar_len (codeTableOk_of_valid valid) mapped
    rw [sent_of_mapped (cfgEq ▸ mapped), cfgEq]
    refine ⟨?_, txInv_startCharacter valid codeLen, ?_, ?_⟩
    · rw [progress.frame]; rfl
    · rwa [remaining_of_idle s.cfg ((busy_eq_false_iff v).1 idle), playedSegments_of_mapped mapped, List.nil_append,
        ← remaining_startCharacter s.cfg codeLen.1] at plays
    · rwa [unmappedCount_cons_of_mapped mapped] at misses

end

section
variable {s : State} (valid : s.cfg.valid = true) (released : s.rst = false)
include valid released

/-- The host offers the bytes that wait, until one is held (R238, R263). -/
theorem InProgress.run_offerThen {v : State} {cs waiting : List Byte} {n : Nat}
    (progress : InProgress s cs n v waiting) (is : List Instr) {p : Option Word} (ch : List OutEvent)
    (free : p = none ∨ p = waiting.head?.map txcWord) :
    ∃ v' waiting' ch', runActs (offerThen is (waiting.map txcWord) v) v p ch = runSchedule is waiting' v' ch' ∧
      Playing s cs n v' waiting' := by
  induction waiting generalizing v p ch with
  | nil =>
    obtain rfl : p = none := free.elim id id
    exact ⟨v, [], ch, rfl, progress, fun _ => rfl⟩
  | cons c waiting ih =>
    have validV : v.cfg.valid = true := progress.cfg_eq ▸ valid
    have releasedV : v.rst = false := progress.rst_eq.trans released
    rw [List.map_cons]
    cases busy : v.busy with
    | true =>
      rw [offerThen_of_busy busy, runActs_present validV releasedV _ ch free,
        runActs_host_of_busy validV releasedV busy]
      exact ⟨v, c :: waiting, [], rfl, progress, by simp [busy]⟩
    | false =>
      rw [offerThen_of_idle busy, runActs_present validV releasedV _ ch free,
        runActs_host_of_idle validV releasedV busy]
      exact ih (progress.sent valid busy) [] (.inl rfl)

theorem Playing.run_sends {v : State} {cs waiting : List Byte} (playing : Playing s cs 0 v waiting) (ds : List Byte)
    (is : List Instr) (ch : List OutEvent) :
    ∃ v' waiting' ch', runSchedule (ds.map Instr.txc ++ is) waiting v ch = runSchedule is waiting' v' ch' ∧
      Playing s (cs ++ ds) 0 v' waiting' := by
  induction ds generalizing v cs waiting ch with
  | nil => exact ⟨v, waiting, ch, rfl, by rwa [List.append_nil]⟩
  | cons d ds ih =>
    have free : waiting.head?.map txcWord = none ∨
        waiting.head?.map txcWord = (waiting ++ [d]).head?.map txcWord := by
      cases waiting <;> simp
    obtain ⟨v₁, waiting₁, ch₁, offered, playing₁⟩ :=
      (playing.queue d).run_offerThen valid released (ds.map Instr.txc ++ is) ch free
    obtain ⟨v₂, waiting₂, ch₂, sent, playing₂⟩ := ih playing₁ ch₁
    refine ⟨v₂, waiting₂, ch₂, ?_, by rwa [List.append_assoc] at playing₂⟩
    rw [← sent, ← offered, List.map_append, List.map_cons, List.cons_append, runSchedule, scheduleFrom_txc]
    rfl

theorem Playing.run_ticks {v : State} {cs waiting : List Byte} {k : Nat} (playing : Playing s cs k v waiting)
    (n : Nat) (ch : List OutEvent) :
    ∃ v' waiting' ch', runSchedule (List.replicate n .tick) waiting v ch
        = .next (v'.withPorts (waiting'.head?.map txcWord) ch' []) ∧
      Playing s cs (k + n) v' waiting' := by
  induction n generalizing v waiting k ch with
  | zero => exact ⟨v, waiting, ch, rfl, playing⟩
  | succ n ih =>
    have validV : v.cfg.valid = true := playing.cfg_eq ▸ valid
    have releasedV : v.rst = false := playing.rst_eq.trans released
    obtain ⟨v₁, waiting₁, ch₁, offered, playing₁⟩ :=
      (playing.tick valid).run_offerThen valid released (List.replicate n .tick) [] (.inr rfl)
    obtain ⟨v₂, waiting₂, ch₂, ticked, playing₂⟩ := ih playing₁ ch₁
    refine ⟨v₂, waiting₂, ch₂, ?_, by rwa [Nat.add_right_comm] at playing₂⟩
    rw [← ticked, ← offered, List.replicate_succ, runSchedule, scheduleFrom_tick_eq_offerThen,
      runActs_clock validV releasedV]

end

/-- The run of SEND and the TICKs after it. -/
theorem runProgram_send_ticks {s : State} (valid : s.cfg.valid = true) (released : s.rst = false)
    (noWord : s.port = none) (idle : s.busy = false) (inv : TxInv s.cfg s.tx) (inRange : s.now < 2 ^ s.cfg.timeW)
    (cs : List Byte) (n : Nat) :
    ∃ v waiting ch, runProgram [.send cs, .ticks n] s = .next (v.withPorts (waiting.head?.map txcWord) ch []) ∧
      Playing s cs n v waiting := by
  have expansion : [AsmLine.send cs, .ticks n].flatMap AsmLine.expand = cs.map Instr.txc ++ List.replicate n .tick := by
    simp [AsmLine.expand]
  obtain ⟨v₁, waiting₁, ch₁, sent, playing₁⟩ :=
    (playing_nil idle inv inRange).run_sends valid released cs (List.replicate n .tick) s.charPort
  obtain ⟨v₂, waiting₂, ch₂, ticked, playing₂⟩ := playing₁.run_ticks valid released n ch₁
  rw [Nat.zero_add] at playing₂
  exact ⟨v₂, waiting₂, ch₂, by rw [runProgram_eq_runSchedule noWord, expansion, sent, ticked], playing₂⟩

/-- Settles O25: the registers and the bytes that wait have the string's segments to play, less one millisecond for each
TICK; when none are left, no byte waits and each one was counted. -/
theorem aStringPlaysItsCharactersInOrder : Obligations.AStringPlaysItsCharactersInOrder := by
  unfold Obligations.AStringPlaysItsCharactersInOrder
  refine ⟨fun s c is idle unmapped => ?_, fun s cs n valid released noWord idle inv inRange => ?_⟩
  · rw [runInstrs, exec_txc_of_idle idle, sent_of_unmapped unmapped, State.countEncMiss]
  obtain ⟨v, waiting, ch, run, playing⟩ := runProgram_send_ticks valid released noWord idle inv inRange cs n
  have ready := playing.cmdReady_iff valid
  have noneWaits : totalLength (cs.flatMap (playedSegments s.cfg)) ≤ n → waiting = [] := fun atEnd =>
    playing.held ((cmdReady_iff_not_busy v).1 (ready.2 atEnd))
  have misses := playing.misses
  refine ⟨_, run, rfl, ?now, playing.out valid, fun atEnd => ⟨ready.2 atEnd, ?empty, ?misses⟩, fun before => ?held,
    ?rest⟩
  case now => simp only [State.withPorts]; rw [playing.frame]
  case empty => simp [State.withPorts, noneWaits atEnd]
  case misses => simpa [noneWaits atEnd, unmappedCount, State.withPorts] using misses
  case held => exact Bool.eq_false_iff.2 fun isReady => Nat.not_le_of_lt before (ready.1 isReady)
  case rest => simp only [State.withPorts]; rw [playing.frame]; exact ⟨rfl, rfl, rfl, rfl⟩

end Sys2Proof.Machine

/-!
PROOFS. The control commands and the host's step while the transmitter is idle: NOP (R262), TICK's frame (R260), and the
word that leaves the port, performed as its instruction (R263) or as an illegal word (R264).
-/

namespace Sys2Proof.Machine

theorem exec_nop_of_idle {s : State} (idle : s.busy = false) : exec .nop s = .next s := by
  rw [exec, execNop, whenReady_of_idle idle]

/-- Settles O16: NOP is the decoder's first line; idle or busy, its answer is the state it was given. -/
theorem nopChangesNothing : Obligations.NopChangesNothing := by
  unfold Obligations.NopChangesNothing
  refine ⟨fun cfg => ⟨(decodeCmd_eq_ok_iff_wf rfl).2 rfl, rfl⟩, fun s idle => ?_, fun s sending => ?_⟩
  · exact exec_nop_of_idle ((busy_eq_false_iff s).2 idle)
  · have busy : s.busy = true := by simpa [State.busy] using sending
    exact exec_of_busy (by simp) busy

/-- Settles O17: the new transmit registers are those of `txTick`. -/
theorem tickAdvancesTimeAndTouchesNoReceiveRegister : Obligations.TickAdvancesTimeAndTouchesNoReceiveRegister := by
  unfold Obligations.TickAdvancesTimeAndTouchesNoReceiveRegister
  exact fun s => ⟨txTick s.cfg s.tx, exec_tick s⟩

theorem performWord_of_legal {s : State} {w : Word} {i : Instr} (legal : decodeCmd s.cfg w = .ok i) :
    performWord w s = exec i s := by
  simp [performWord, legal]

/-- The idle block's host step performs the waiting word at the state from which the word has left the port (R263). -/
theorem step_host_of_idle {s : State} {rest : List EnvStep} {w : Word} (running : Running s .host rest)
    (waits : s.port = some w) (idle : s.busy = false) :
    step s = performWord w (s.beginStep rest).clearPort := by
  have ⟨_, released, _⟩ := running
  calc step s = hostStep (s.beginStep rest) := step_of_running running
    _ = performWord w (s.beginStep rest).clearPort :=
      hostStep_of_idle (s := s.beginStep rest) released waits idle

/-- Settles O6: performing a word that decodes is `exec` of its instruction. -/
theorem aHostStepRunsTheDecodedInstruction : Obligations.AHostStepRunsTheDecodedInstruction := by
  unfold Obligations.AHostStepRunsTheDecodedInstruction
  intro s rest w i running waits idle legal
  calc step s = performWord w (s.beginStep rest).clearPort := step_host_of_idle running waits idle
    _ = exec i (s.beginStep rest).clearPort := performWord_of_legal legal

/-- Settles O4: an illegal word and an RXS with operands the instance lacks both answer `raiseIll`. -/
theorem anIllegalWordIsConsumedAndOnlySetsIll : Obligations.AnIllegalWordIsConsumedAndOnlySetsIll := by
  unfold Obligations.AnIllegalWordIsConsumedAndOnlySetsIll
  refine ⟨fun s rest w e running idle waits illegal => ?_, fun s k x idle lacking => exec_rxs_of_lacking idle lacking⟩
  calc step s = performWord w (s.beginStep rest).clearPort := step_host_of_idle running waits idle
    _ = .next (s.beginStep rest).clearPort.raiseIll := performWord_of_illegal illegal

end Sys2Proof.Machine

/-!
PROOFS. The command port's handshake (R291, R297), the pin `RST` while it is asserted (R293), and why no act but a
changed word stops the block (R280, R322).
-/

namespace Sys2Proof.Machine

/-- Under a valid configuration a step performs the environment's next act, whatever the level of `RST`. -/
theorem step_of_valid {s : State} {e : EnvStep} {rest : List EnvStep} (valid : s.cfg.valid = true)
    (next : s.env = e :: rest) : step s = envStep e (s.beginStep rest) := by
  simp [step, blockStep, valid, next]

/-! Every instruction, and every word taken from the port, completes (R280). -/

theorem whenReady_completes (s : State) (k : State → State) : ∃ t, whenReady s k = .next t := by
  cases busy : s.busy
  · exact ⟨_, whenReady_of_idle busy k⟩
  · exact ⟨_, whenReady_of_busy busy k⟩

theorem exec_completes (i : Instr) (s : State) : ∃ t, exec i s = .next t := by
  cases i with
  | nop => rw [exec, execNop]; exact whenReady_completes s _
  | rxs k x => rw [exec, execRxs]; exact whenReady_completes s _
  | txc c => rw [exec, execTxc]; exact whenReady_completes s _
  | tick => exact ⟨_, exec_tick s⟩

/-- Performing a word, legal or not, completes and puts no word at the port (R263, R264). -/
theorem performWord_completes (w : Word) (s : State) : ∃ t, performWord w s = .next t ∧ t.port = s.port := by
  cases decoded : decodeCmd s.cfg w with
  | ok i =>
    obtain ⟨t, performed⟩ := exec_completes i s
    exact ⟨t, (performWord_of_legal decoded).trans performed, (exec_frame performed).port⟩
  | error e => exact ⟨_, performWord_of_illegal decoded, rfl⟩

/-! Presenting a word (R291, R297). -/

theorem presentWord_of_empty {s : State} (released : s.rst = false) (empty : s.port = none) (w : Word) :
    presentWord w s = .next { s with port := some w } := by
  simp [presentWord, released, empty]

theorem presentWord_of_same {s : State} {w : Word} (released : s.rst = false) (waits : s.port = some w) :
    presentWord w s = .next s := by
  simp [presentWord, released, waits]

theorem presentWord_of_changed {s : State} {v w : Word} (released : s.rst = false) (waits : s.port = some v)
    (changed : v ≠ w) : presentWord w s = .refused .heldWordChanged := by
  simp [presentWord, released, waits, changed]

/-- Settles O10: the act is performed at a port that is still empty when the step begins. -/
theorem aPresentedWordWaitsAtThePort : Obligations.APresentedWordWaitsAtThePort := by
  unfold Obligations.APresentedWordWaitsAtThePort
  intro s rest w running empty
  have ⟨_, released, _⟩ := running
  calc step s = presentWord w (s.beginStep rest) := step_of_running running
    _ = .next { s.beginStep rest with port := some w } :=
      presentWord_of_empty (s := s.beginStep rest) released empty w

/-- Settles O11: the two words are compared before anything is written. -/
theorem changingAWaitingWordIsRefused : Obligations.ChangingAWaitingWordIsRefused := by
  unfold Obligations.ChangingAWaitingWordIsRefused
  intro s rest v w running waits
  have ⟨_, released, _⟩ := running
  have act : step s = presentWord w (s.beginStep rest) := step_of_running running
  refine ⟨fun changed => ?_, fun same => ?_⟩
  · exact act.trans (presentWord_of_changed (s := s.beginStep rest) released waits changed)
  · exact act.trans (presentWord_of_same (s := s.beginStep rest) released (same ▸ waits))

/-! Taking a word (R291). -/

/-- A host step of an idle block leaves the port empty, whatever the word that waited. -/
theorem step_host_of_idle_port {s t : State} {rest : List EnvStep} {w : Word} (running : Running s .host rest)
    (waits : s.port = some w) (idle : s.busy = false) (stepped : step s = .next t) : t.port = none := by
  obtain ⟨u, performed, portKept⟩ := performWord_completes w (s.beginStep rest).clearPort
  have same : step s = .next u := (step_host_of_idle running waits idle).trans performed
  obtain rfl : t = u := by simpa [stepped] using same
  simpa using portKept

/-- A host step of a busy block keeps the port as it is (R238). -/
theorem step_host_of_busy_port {s t : State} {rest : List EnvStep} (running : Running s .host rest)
    (busy : s.busy = true) (stepped : step s = .next t) : t.port = s.port := by
  have held : step s = .next (s.beginStep rest) := aWordIsHeldWhileTheTransmitterIsBusy.1 s rest running busy
  obtain rfl : t = s.beginStep rest := by simpa [stepped] using held
  rfl

/-- Settles O9: with a word at the port, an idle block's step empties it and a busy block's step keeps it. -/
theorem aWordIsTakenExactlyWhenValidAndReady : Obligations.AWordIsTakenExactlyWhenValidAndReady := by
  unfold Obligations.AWordIsTakenExactlyWhenValidAndReady
  intro s t rest running stepped
  refine and_congr_right fun valid => ?_
  obtain ⟨w, waits⟩ := Option.isSome_iff_exists.1 valid
  rw [cmdReady_iff_not_busy, State.cmdValid]
  cases busy : s.busy
  · simp [step_host_of_idle_port running waits busy stepped]
  · simp [step_host_of_busy_port running busy stepped, waits]

/-! Every act while `RST` is asserted (R293). -/

/-- While `RST` is asserted only a drive of the pin acts on the block. -/
theorem envStep_of_asserted {s : State} {e : EnvStep} (asserted : s.rst = true) (noDrive : ∀ level, e ≠ .reset level) :
    envStep e s = .next s := by
  cases e with
  | present w => simp [envStep, presentWord, asserted]
  | host => simp [envStep, hostStep, asserted]
  | clock => simp [envStep, clockStep, asserted]
  | reset level => exact absurd rfl (noDrive level)

/-- Settles O15: each of the three acts asks for the level of `RST` first. -/
theorem nothingIsPerformedWhileResetIsAsserted : Obligations.NothingIsPerformedWhileResetIsAsserted := by
  unfold Obligations.NothingIsPerformedWhileResetIsAsserted
  intro s rest e valid asserted next noDrive
  calc step s = envStep e (s.beginStep rest) := step_of_valid valid next
    _ = .next (s.beginStep rest) := envStep_of_asserted (s := s.beginStep rest) asserted noDrive

/-! Every act completes, but for a changed word (R280, R322). -/

theorem resetStep_completes (level : Bool) (s : State) : ∃ t, resetStep level s = .next t := by
  unfold resetStep
  split
  · exact ⟨_, rfl⟩
  · exact ⟨_, rfl⟩

theorem hostStep_completes {s : State} (released : s.rst = false) : ∃ t, hostStep s = .next t := by
  cases busy : s.busy
  · cases port : s.port with
    | none => exact ⟨s, by simp [hostStep, released, port]⟩
    | some w =>
      obtain ⟨t, performed, -⟩ := performWord_completes w s.clearPort
      exact ⟨t, (hostStep_of_idle released port busy).trans performed⟩
  · exact ⟨s, hostStep_of_busy released busy⟩

/-- The host keeps its duty when it presents a word out of reset: the port is empty, or the word waits there already
(R297). -/
theorem port_of_not_breaksHold {s : State} {w : Word} {rest : List EnvStep} (next : s.env = .present w :: rest)
    (released : s.rst = false) (keeps : breaksHold s = false) : s.port = none ∨ s.port = some w := by
  cases port : s.port with
  | none => exact .inl rfl
  | some v => exact .inr (by simpa [breaksHold, next, port, released] using keeps)

theorem presentWord_completes {s : State} {w : Word} (released : s.rst = false)
    (free : s.port = none ∨ s.port = some w) : ∃ t, presentWord w s = .next t := by
  obtain empty | waits := free
  · exact ⟨_, presentWord_of_empty released empty w⟩
  · exact ⟨_, presentWord_of_same released waits⟩

/-- Settles O13, by the environment's next act: a drive of the pin always completes, during reset every other act is
lost, and out of reset only a changed word is refused. -/
theorem theBlockNeverStops : Obligations.TheBlockNeverStops := by
  unfold Obligations.TheBlockNeverStops
  intro s valid keeps
  cases next : s.env with
  | nil => exact ⟨s, by simp [step, blockStep, valid, next]⟩
  | cons e rest =>
    rw [step_of_valid valid next]
    cases reset : s.rst with
    | true =>
      cases e with
      | reset level => exact resetStep_completes level _
      | _ => exact ⟨_, envStep_of_asserted (s := s.beginStep rest) reset (by simp)⟩
    | false =>
      cases e with
      | present w =>
        have free : s.port = none ∨ s.port = some w := port_of_not_breaksHold next reset keeps
        exact presentWord_completes (s := s.beginStep rest) reset free
      | host => exact hostStep_completes (s := s.beginStep rest) reset
      | clock =>
        obtain ⟨t, ticked⟩ := exec_completes .tick (s.beginStep rest)
        exact ⟨t, (clockStep_of_released (s := s.beginStep rest) reset).trans ticked⟩
      | reset level => exact resetStep_completes level _

end Sys2Proof.Machine

/-!
PROOFS. Reset: the values every register takes (R56, R310), and the start-up hold-off that the cleared timers cause
(R315).
-/

namespace Sys2Proof.Machine

/-! The reset action (R310). -/

theorem resetStep_of_asserted {s : State} {level : Bool} (acts : level = true ∨ s.rst = true) :
    resetStep level s = .next { s.applyReset with rst := level } := by
  simp [resetStep, acts]

/-- Settles O14: the values written out are those of the reset action at the pin's new level. -/
theorem resetPutsEveryRegisterAtItsResetValue : Obligations.ResetPutsEveryRegisterAtItsResetValue := by
  unfold Obligations.ResetPutsEveryRegisterAtItsResetValue
  intro s rest level valid next acts
  calc step s = resetStep level (s.beginStep rest) := step_of_valid valid next
    _ = .next { (s.beginStep rest).applyReset with rst := level } :=
      resetStep_of_asserted (s := s.beginStep rest) acts

/-! The start-up hold-off (R315). -/

/-- From a timer at its reset value `NOW` itself is what has elapsed. -/
theorem subT_zero_right {w now : Nat} (inRange : now < 2 ^ w) : subT w now 0 = now := by
  have elapsed := subT_add_mod w 0 now
  rwa [Nat.zero_add, Nat.mod_eq_of_lt inRange] at elapsed

/-- Settles O39: a low raw state is no request of an inactive channel, and a high one asks for a rising edge, which
fails debounce or the peak guard, so the request is dropped. -/
theorem nothingIsAcceptedDuringTheHoldOff : Obligations.NothingIsAcceptedDuringTheHoldOff := by
  unfold Obligations.NothingIsAcceptedDuringTheHoldOff
  intro s k x idle wf inRange transZero riseZero low holdOff
  have dropped : (condition s.cfg x (s.ch k)).2 = (s.ch k).acc ∨
      subT s.cfg.timeW s.now (s.ch k).tTrans < s.cfg.debounceTime ∨
      ((condition s.cfg x (s.ch k)).2 = true ∧
        subT s.cfg.timeW s.now (s.ch k).tRise < s.cfg.peakDetectionThreshold) := by
    rw [transZero, riseZero, subT_zero_right inRange, low]
    cases (condition s.cfg x (s.ch k)).2 with
    | false => exact .inl rfl
    | true => exact .inr (holdOff.imp_right fun guarded => ⟨rfl, guarded⟩)
  obtain ⟨t, completes, -, -, kept⟩ := aDroppedRequestLeavesNoTrace s k x idle wf dropped
  obtain ⟨accEq, -, -, transEq, riseEq, -⟩ := kept k
  exact ⟨t, completes, accEq.trans low, transEq.trans transZero, riseEq.trans riseZero⟩

end Sys2Proof.Machine
